-- ==== Sys2Proof/Word.lean ====
section
/-! DEFINITION. The value types of 00_scope.md R8: a value of a type is a bit pattern of the type's width. -/

namespace Sys2Proof

/-- The 2-bit oversampling mode operand (R23). -/
abbrev U2 := BitVec 2
/-- A 4-bit field: `STEP` and `BCLS` of the status word (R84), the `fsm` code (R21). -/
abbrev U4 := BitVec 4
/-- An unsigned byte (R8). -/
abbrev U8 := BitVec 8
/-- A 16-bit pattern; R25 says which coefficients are read signed and which unsigned. -/
abbrev U16 := BitVec 16
/-- A 32-bit pattern whose number is the unsigned reading, `BitVec.toNat` (R8). -/
abbrev U32 := BitVec 32
/-- A 32-bit pattern whose number is the two's-complement reading, `BitVec.toInt` (R8).
`as_S32` and `as_U32` change no bit, so they are the identity between the two names. -/
abbrev S32 := BitVec 32

end Sys2Proof
end

