-- ==== Sys2Proof/Config.lean ====
section
/-! DEFINITION. What is fixed for one block and the spec leaves to its environment (00_scope.md R6). Every number of
R6's table that the source fixes stands in the definition that uses it. -/

namespace Sys2Proof

/-- R6, D41: the opaque name of the open bus session that the block borrows. It is not state: no command changes it,
reset does not touch it, and no rule of the block reads it. It is the first argument of every transaction of R11,
the same in all of them, so the trace events of R38 leave it out. -/
opaque Config.bus : Nat

/-- The four bus error classes (R87). -/
inductive BusClass where
  | deviceAbsent
  | addressRejected
  | shortTransfer
  | other
  deriving DecidableEq, Repr

/-- R6, D22: `BusError` is a parameter type that comes with `bus_error_class`. Here a value is its class and a payload
that nothing in the block reads, so any countable type of errors with any class function is an instance of it
(DESIGN CHOICE, notes/assumptions/3.md; safe). -/
structure BusError where
  errClass : BusClass
  payload  : Nat
  deriving DecidableEq, Repr

/-- `bus_error_class : BusError -> {1,2,3,4}` (R87). -/
def busErrorClass (e : BusError) : BusClass := e.errClass

end Sys2Proof
end

