-- ==== Sys2Proof/Machine/State.lean ====
section
/-! DEFINITION. The machine's state: exactly the fields of 10_state.md R20, and two fields of the model's own that hold
what crosses the block's boundary (notes/assumptions/1.md). -/

namespace Sys2Proof.Machine

open Sys2Proof

/-! ### Field types -/

/-- The FSM state register (R21). Codes 10 to 15 are never held: no constructor stands for them
(notes/assumptions/24.md). -/
inductive Fsm where
  | uncal
  | sRdCal
  | ready
  | sWrTcmd
  | sDlyT
  | sRdT
  | sWrPcmd
  | sDlyP
  | sRdP
  | sComp
  deriving DecidableEq, Repr

/-- The calibration coefficient file `cal[0..10]` (R25): eleven 16-bit patterns under the source's names. AC4, AC5 and
AC6 are read unsigned, the other eight signed. -/
structure Cal where
  ac1 : U16
  ac2 : U16
  ac3 : U16
  ac4 : U16
  ac5 : U16
  ac6 : U16
  b1  : U16
  b2  : U16
  mb  : U16
  mc  : U16
  md  : U16
  deriving DecidableEq, Repr

/-- Two raw temperature bytes, most significant first (R26). -/
structure RawT where
  msb : U8
  lsb : U8
  deriving DecidableEq, Repr

/-- Three raw pressure bytes (R27). All 8 bits of XLSB are kept. -/
structure RawP where
  msb  : U8
  lsb  : U8
  xlsb : U8
  deriving DecidableEq, Repr

/-- The datapath record of the compensation pipeline (R34). -/
structure Datapath where
  x1 : S32
  x2 : S32
  x3 : S32
  b3 : S32
  b5 : S32
  b6 : S32
  t  : S32
  p  : S32
  b4 : U32
  b7 : U32
  deriving DecidableEq, Repr

/-- A bus transaction (R11, R70): `select_and_write` or `select_and_read` at a bus address and register. -/
inductive Tx where
  | write (addr reg : U8) (payload : List U8)
  | read (addr reg : U8) (count : Nat)
  deriving DecidableEq, Repr

/-- A request to an external agent; R35's `pend` is `none` or one of these. -/
inductive Request where
  | bus (tx : Tx)
  | delay (ns : Nat)
  deriving DecidableEq, Repr

/-- The events of the trace (R38). -/
inductive Event where
  /-- `W(addr, reg, payload)` -/
  | w (addr reg : U8) (payload : List U8)
  /-- `W_ok` -/
  | wOk
  /-- `W_err(e)` -/
  | wErr (e : BusError)
  /-- `R(addr, reg, n)` -/
  | r (addr reg : U8) (count : Nat)
  /-- `R_ok(bytes)` -/
  | rOk (bytes : List U8)
  /-- `R_err(e)` -/
  | rErr (e : BusError)
  /-- `D(ns)` -/
  | d (ns : Nat)
  /-- `D_done` -/
  | dDone
  deriving DecidableEq, Repr

/-- An answer of `Bus` or `Delay` (R154 to R156). -/
inductive Answer where
  | writeOk
  | readOk (bytes : List U8)
  | busErr (e : BusError)
  | delayDone
  deriving DecidableEq, Repr

/-- What reaches the block from outside (R5, R13): an action of the `Host`, an answer of `Bus` or `Delay`, or, for one
step, nothing. `Bus` and `Delay` answer each request once and know which one they answer, so an answer to the request that
is pending and an answer to one that a reset abandoned are different inputs (DESIGN CHOICE, notes/assumptions/14.md). -/
inductive Input where
  /-- The host issues a one-word command (R79). -/
  | command (w : U32)
  /-- The host asserts reset (R280). -/
  | reset
  /-- `Ok` of the pending `BusWrite` (R154). -/
  | writeOk
  /-- `Ok(bytes)` of the pending `BusRead` (R155). -/
  | readOk (bytes : List U8)
  /-- `Err(e)` of either (R154, R155). -/
  | busErr (e : BusError)
  /-- `Done` of the pending `Delay` (R156). -/
  | delayDone
  /-- An answer to a request that a reset abandoned (R249, R281). -/
  | late (answer : Answer)
  /-- Nothing arrives while the block takes this step. -/
  | quiet
  deriving DecidableEq, Repr

/-- The `data` part of a response (R83). -/
inductive Data where
  | none
  | temp (tenths : S32)
  | press (pa : S32)
  | cal (patterns : List U16)
  deriving DecidableEq, Repr

/-- One response to the host (R83). `busError` is `last_bus_error`, attached when the code is INIT_BUS_ERROR or
MEAS_BUS_ERROR. -/
structure Response where
  status   : U32
  data     : Data
  busError : Option BusError
  deriving DecidableEq, Repr

/-! ### The state record -/

/-- R20: "The block's state `st` is a record with exactly these fields", in R20's order, and the two boundary fields. -/
structure State where
  /-- the pc analogue (R21) -/
  fsm          : Fsm
  /-- device bus address (R22) -/
  devAddr      : U8
  /-- oversampling mode (R23) -/
  oss          : U2
  /-- calibration coefficients (R25) -/
  cal          : Cal
  /-- last raw temperature sample (R26) -/
  rawT         : RawT
  /-- last raw pressure sample (R27) -/
  rawP         : RawP
  /-- derived temperature in tenths of a degree Celsius (R28) -/
  tempTenths   : S32
  /-- derived pressure in Pa (R29) -/
  pressure     : S32
  /-- the handle is calibrated (R24) -/
  calValid     : Bool
  /-- a measurement has been committed (R30) -/
  rdValid      : Bool
  /-- sticky: a compensation division by zero has occurred (R32) -/
  faultDz      : Bool
  /-- status word of the last command other than GET_STATUS (R31) -/
  lastStatus   : U32
  /-- bus error of the last failed transaction, unmodified (R20, R241) -/
  lastBusError : Option BusError
  /-- INIT's operands, staged (R33) -/
  stgAddr      : U8
  stgMode      : U2
  /-- RD_CAL's 22 bytes, staged (R33) -/
  stgCal       : Vector U8 22
  /-- RD_T's and RD_P's bytes, staged (R33) -/
  stgT         : RawT
  stgP         : RawP
  /-- compensation datapath (R34) -/
  dp           : Datapath
  /-- the request in flight (R35) -/
  pend         : Option Request
  /-- every request issued and answer received since reset, oldest first (R38) -/
  trace        : List Event
  /-- the model's own: what the outside world does next, soonest first -/
  inputs       : List Input
  /-- the model's own: the responses returned to the host so far, oldest first (R14) -/
  responses    : List Response
  deriving DecidableEq, Repr

/-- Reasons to stop with a fault. There are none: the block's only fault, the compensation fault of R246, "still returns
a status to the Host" (R12), so it is a next state with `fault_dz` set (DEDUCED,
notes/assumptions/13.md). -/
inductive Fault where
  deriving DecidableEq, Repr

/-- Reasons to have no step. -/
inductive Refusal where
  /-- Raised by an arm of `exec` whose instruction has no meaning yet; no arm is left that does. Safe. -/
  | notModelled (mnemonic : String)
  /-- Raised by every host command while another is outstanding: R257 gives that host action no step
  (notes/assumptions/11.md). Safe for a claim
  about this block; R257 lists it as erring toward proving for a host that does it. -/
  | commandOutstanding
  /-- Raised by a micro-operation in a state whose FSM does not issue it: "There are no other edges" (R140), and the
  host never issues one (R88). `step` never does this from a state that meets R35 (notes/assumptions/12.md). Safe. -/
  | microOpOutOfState
  /-- Raised by a read whose `Ok` carries another number of bytes than was asked: "An answer with a different length
  cannot occur; a model rejects it" (R155; notes/assumptions/10.md). Safe. -/
  | answerLength
  deriving DecidableEq, Repr

/-! ### Reset values -/

/-- A coefficient file of zeros. -/
def Cal.zero : Cal := ⟨0, 0, 0, 0, 0, 0, 0, 0, 0, 0, 0⟩

/-- A datapath of zeros. -/
def Datapath.zero : Datapath := ⟨0, 0, 0, 0, 0, 0, 0, 0, 0, 0⟩

/-- R40. `fsm`, the three flags, `last_status`, `last_bus_error`, `pend` and `trace` are the spec's values. The fields
that R40 calls unspecified hold zero here (DESIGN CHOICE, notes/assumptions/2.md; unsafe). Nothing has come from
outside and no response has been returned. -/
def State.reset : State where
  fsm          := .uncal
  devAddr      := 0
  oss          := 0
  cal          := .zero
  rawT         := ⟨0, 0⟩
  rawP         := ⟨0, 0, 0⟩
  tempTenths   := 0
  pressure     := 0
  calValid     := false
  rdValid      := false
  faultDz      := false
  lastStatus   := 0x000000FF
  lastBusError := none
  stgAddr      := 0
  stgMode      := 0
  stgCal       := #v[0, 0, 0, 0, 0, 0, 0, 0, 0, 0, 0, 0, 0, 0, 0, 0, 0, 0, 0, 0, 0, 0]
  stgT         := ⟨0, 0⟩
  stgP         := ⟨0, 0, 0⟩
  dp           := .zero
  pend         := none
  trace        := []
  inputs       := []
  responses    := []

end Sys2Proof.Machine
end

