-- ==== Sys2Proof/Machine/Flags.lean ====
section
/-! DEFINITION. The status word (30_encoding.md R84 to R87) and the three flags it copies (10_state.md R36). The block has
no condition codes. -/

namespace Sys2Proof.Machine

open Sys2Proof

/-- The outcome codes (R85). -/
inductive OutcomeCode where
  | ok
  | initBusError
  | measBusError
  | modeInvalid
  | notCalibrated
  | alreadyInitialized
  | noReading
  | compDivZero
  | illegalCommand
  /-- the reset value of `last_status`: no command has ended since reset -/
  | noneYet
  deriving DecidableEq, Repr

/-- The `CODE` byte (R85). -/
def OutcomeCode.code : OutcomeCode → U8
  | .ok => 0x00
  | .initBusError => 0x01
  | .measBusError => 0x02
  | .modeInvalid => 0x03
  | .notCalibrated => 0x04
  | .alreadyInitialized => 0x05
  | .noReading => 0x06
  | .compDivZero => 0x07
  | .illegalCommand => 0x08
  | .noneYet => 0xFF

/-- Does a response with this code carry `last_bus_error` (R83)? -/
def OutcomeCode.wrapsBusError : OutcomeCode → Bool
  | .initBusError | .measBusError => true
  | .ok | .modeInvalid | .notCalibrated | .alreadyInitialized | .noReading | .compDivZero
  | .illegalCommand | .noneYet => false

/-- The step codes (R86). -/
inductive StepCode where
  | noStep
  | rdCal
  | wrTcmd
  | dlyT
  | rdT
  | wrPcmd
  | dlyP
  | rdP
  /-- the divisor of step T2 -/
  | compT
  /-- the divisor of step P11 -/
  | compP
  deriving DecidableEq, Repr

/-- The `STEP` field (R86). -/
def StepCode.code : StepCode → U4
  | .noStep => 0
  | .rdCal => 1
  | .wrTcmd => 2
  | .dlyT => 3
  | .rdT => 4
  | .wrPcmd => 5
  | .dlyP => 6
  | .rdP => 7
  | .compT => 8
  | .compP => 9

/-- The number of a bus error class (R87). -/
def busClassCode : BusClass → U4
  | .deviceAbsent => 1
  | .addressRejected => 2
  | .shortTransfer => 3
  | .other => 4

/-- The `BCLS` field: 0 where there is no bus error (R87). -/
def bclsField : Option BusClass → U4
  | none => 0
  | some c => busClassCode c

/-- A flag as a 32-bit number. -/
def flagBit (b : Bool) : U32 := if b then 1 else 0

/-- R100's `status_word`, with the three flags as operands. -/
def statusWord (code : OutcomeCode) (step : StepCode) (cls : Option BusClass) (cal rdv flt : Bool) : U32 :=
  code.code.setWidth 32 ||| (step.code.setWidth 32 <<< 8) ||| ((bclsField cls).setWidth 32 <<< 12)
    ||| (flagBit cal <<< 16) ||| (flagBit rdv <<< 17) ||| (flagBit flt <<< 18)

/-- R100: the status word with the flags "as they stand when the command ends" (R31). -/
def State.statusWord (s : State) (code : OutcomeCode) (step : StepCode) (cls : Option BusClass) : U32 :=
  Machine.statusWord code step cls s.calValid s.rdValid s.faultDz

/-! Fields of a status word (R84). -/

/-- `CODE`, bits 7:0. -/
def statusCode (w : U32) : U8 := w.extractLsb' 0 8
/-- `STEP`, bits 11:8. -/
def statusStep (w : U32) : U4 := w.extractLsb' 8 4
/-- `BCLS`, bits 15:12. -/
def statusBcls (w : U32) : U4 := w.extractLsb' 12 4
/-- `CAL`, bit 16. -/
def statusCal (w : U32) : Bool := w.getLsbD 16
/-- `RDV`, bit 17. -/
def statusRdv (w : U32) : Bool := w.getLsbD 17
/-- `FLT`, bit 18. -/
def statusFlt (w : U32) : Bool := w.getLsbD 18
/-- The reserved bits 31:19. -/
def statusReserved (w : U32) : BitVec 13 := w.extractLsb' 19 13

end Sys2Proof.Machine
end

