-- ==== Sys2Proof/Syntax.lean ====
section
/-! DEFINITION. The instructions: one constructor for each row of spec/opcode_table.json (30_encoding.md R80, R88). -/

namespace Sys2Proof

/-- The block's operations: seven host-word rows (what the host's one-word command decodes to, R82)
and eight internal micro-operations, issued by the driver FSM and never by the host (R88). -/
inductive Instr where
  /-- INIT (R101): device address and oversampling mode operand, 8 bits each. -/
  | init (a m : U8)
  /-- MEASURE (R105). -/
  | measure
  /-- GET_TEMP (R110). -/
  | getTemp
  /-- GET_PRESS (R114). -/
  | getPress
  /-- GET_CAL (R118). -/
  | getCal
  /-- GET_STATUS (R122). -/
  | getStatus
  /-- ILLEGAL (R126): the host word that no other row matches. -/
  | illegal (w : U32)
  /-- RD_CAL (R141), step code 1. -/
  | rdCal
  /-- WR_TCMD (R144), step code 2. -/
  | wrTcmd
  /-- DLY_T (R146), step code 3; `mm` is the index into the delay column. -/
  | dlyT (mm : U2)
  /-- RD_T (R148), step code 4. -/
  | rdT
  /-- WR_PCMD (R149), step code 5; `mm` is the mode field of the command byte. -/
  | wrPcmd (mm : U2)
  /-- DLY_P (R150), step code 6; `mm` is the index into the delay column. -/
  | dlyP (mm : U2)
  /-- RD_P (R151), step code 7. -/
  | rdP
  /-- COMP (R200), step codes 8 and 9. -/
  | comp
  deriving DecidableEq, Repr

end Sys2Proof
end

