-- ==== Sys2Proof/WellFormed.lean ====
section
/-! DEFINITION. Which instruction terms stand for an encoding. The only terms that do not are `illegal w` for a
word `w` that the table gives to a command: R126's ILLEGAL is "any word decode does not map to a command". -/

namespace Sys2Proof

/-- One row of R80's table. -/
structure HostRow where
  wordMatch : U32
  wordMask  : U32
  deriving DecidableEq, Repr

/-- Does the row of R80 take this word? -/
def HostRow.takes (r : HostRow) (w : U32) : Bool := w &&& r.wordMask == r.wordMatch

/-- R80's match and mask columns: INIT, MEASURE, GET_TEMP, GET_PRESS, GET_CAL, GET_STATUS. -/
def hostRows : List HostRow :=
  [⟨0x00000001, 0xFF0000FF⟩, ⟨0x00000002, 0xFFFFFFFF⟩, ⟨0x00000003, 0xFFFFFFFF⟩,
   ⟨0x00000004, 0xFFFFFFFF⟩, ⟨0x00000005, 0xFFFFFFFF⟩, ⟨0x00000006, 0xFFFFFFFF⟩]

/-- R80: "Every other word is illegal". -/
def isCommandWord (w : U32) : Bool := hostRows.any (·.takes w)

/-- A term stands for an encoding. INIT takes every address and every mode byte: R89 calls `M` in 4..255 a legal
encoding with an illegal operand value, which the command itself answers. -/
def Instr.wellFormed : Instr → Bool
  | .illegal w => !isCommandWord w
  | .init _ _ | .measure | .getTemp | .getPress | .getCal | .getStatus
  | .rdCal | .wrTcmd | .dlyT _ | .rdT | .wrPcmd _ | .dlyP _ | .rdP | .comp => true

end Sys2Proof
end

