-- ==== Sys2Proof/Decode.lean ====
section
/-! DEFINITION. Decoding (R82 and the images of R72 to R75), total and rejecting by name; then the encoder, the
decoder of opcode-table words, and the text form of host programs (R90). -/

namespace Sys2Proof

/-- `v[hi:lo]` with `len = hi - lo + 1` bits (R7). -/
def slice {n : Nat} (v : BitVec n) (lo len : Nat) : BitVec len := v.extractLsb' lo len

/-- How an operation is encoded. The formats are those of spec/opcode_table.json (DESIGN CHOICE, notes/assumptions/18.md). -/
inductive Image where
  /-- `HC`: a 32-bit host command word (R79). -/
  | host (w : U32)
  /-- `BUSW`: the register-address byte and the one payload byte of a write (R74). -/
  | busWrite (reg payload : U8)
  /-- `BUSR`: the register-address byte and the byte count of a read (R75). -/
  | busRead (reg count : U8)
  /-- `DLY`: a delay has no bus image. It is numbered by its step code (R86, R88), and the pattern of the opcode
  table is its index into R76's delay column. -/
  | delay (stepCode : U4) (mm : U2)
  /-- `INTERNAL`: COMP has no bus image. The pattern of the opcode table is the FSM state code that issues it. -/
  | internal (fsmCode : U4)
  deriving DecidableEq, Repr

/-- Why an image is not one of the block's. Every host word has a meaning (R82), so only micro-operation images are
rejected (R89.4). -/
inductive DecodeError where
  | noSuchWrite (reg payload : U8)
  | noSuchRead (reg count : U8)
  | noSuchDelay (stepCode : U4)
  | noSuchInternal (fsmCode : U4)
  deriving DecidableEq, Repr

/-- R82's procedure, total on every 32-bit word. -/
def decodeHost (w : U32) : Instr :=
  let op := slice w 0 8
  if op = 0x01 ∧ slice w 24 8 = 0 then .init (slice w 8 8) (slice w 16 8)
  else if op = 0x02 ∧ slice w 8 24 = 0 then .measure
  else if op = 0x03 ∧ slice w 8 24 = 0 then .getTemp
  else if op = 0x04 ∧ slice w 8 24 = 0 then .getPress
  else if op = 0x05 ∧ slice w 8 24 = 0 then .getCal
  else if op = 0x06 ∧ slice w 8 24 = 0 then .getStatus
  else .illegal w

/-- R74: the two write images. `0x2E` has bits 5:0 = 101110 and the pressure command 110100, so they never meet. -/
def decodeWrite (reg payload : U8) : Except DecodeError Instr :=
  if reg = 0xF4 ∧ payload = 0x2E then .ok .wrTcmd
  else if reg = 0xF4 ∧ slice payload 0 6 = 0b110100 then .ok (.wrPcmd (slice payload 6 2))
  else .error (.noSuchWrite reg payload)

/-- R75: the three read images. RD_T and RD_P share the register byte and are told apart by the count. -/
def decodeRead (reg count : U8) : Except DecodeError Instr :=
  if reg = 0xAA ∧ count = 22 then .ok .rdCal
  else if reg = 0xF6 ∧ count = 2 then .ok .rdT
  else if reg = 0xF6 ∧ count = 3 then .ok .rdP
  else .error (.noSuchRead reg count)

/-- R86 numbers the two delays 3 and 6. -/
def decodeDelay (stepCode : U4) (mm : U2) : Except DecodeError Instr :=
  if stepCode = 3 then .ok (.dlyT mm)
  else if stepCode = 6 then .ok (.dlyP mm)
  else .error (.noSuchDelay stepCode)

/-- COMP is the one internal operation; its pattern is `1001`, the `S_COMP` state code (R21). -/
def decodeInternal (fsmCode : U4) : Except DecodeError Instr :=
  if fsmCode = 9 then .ok .comp else .error (.noSuchInternal fsmCode)

/-- The decoder, total on every image. -/
def decode : Image → Except DecodeError Instr
  | .host w => .ok (decodeHost w)
  | .busWrite reg payload => decodeWrite reg payload
  | .busRead reg count => decodeRead reg count
  | .delay stepCode mm => decodeDelay stepCode mm
  | .internal fsmCode => decodeInternal fsmCode

/-! ### The encoder -/

/-- `{a, b}` with `a` in the more significant position (R7): the pressure command byte `{mm, 110100}` of R73. -/
def pressureCommand (mm : U2) : U8 := mm ++ (0b110100 : BitVec 6)

/-- The image of an instruction, from the tables of R72 to R75, R79, R80 and R86. -/
def encode : Instr → Image
  | .init a m => .host ((0 : U8) ++ m ++ a ++ (0x01 : U8))
  | .measure => .host 0x00000002
  | .getTemp => .host 0x00000003
  | .getPress => .host 0x00000004
  | .getCal => .host 0x00000005
  | .getStatus => .host 0x00000006
  | .illegal w => .host w
  | .rdCal => .busRead 0xAA 22
  | .wrTcmd => .busWrite 0xF4 0x2E
  | .dlyT mm => .delay 3 mm
  | .rdT => .busRead 0xF6 2
  | .wrPcmd mm => .busWrite 0xF4 (pressureCommand mm)
  | .dlyP mm => .delay 6 mm
  | .rdP => .busRead 0xF6 3
  | .comp => .internal 9

/-! ### Words of the opcode table -/

/-- The image that an opcode-table pattern stands for. A 32-bit pattern is a host word. A 16-bit pattern is a write:
the register byte above the payload byte. A pattern of at most 8 bits is a read's register byte, COMP's state code or a
delay's table index.

The table gives RD_T and RD_P the same 8 bits and no count, and DLY_T and DLY_P the same 2 bits and no step code, so no
function of the pattern can answer both rows of such a pair: the image taken is the one the table lists first, RD_T and
DLY_T (DEDUCED, notes/assumptions/7.md). -/
def tableImage (nbits w : Nat) : Option Image :=
  if nbits = 32 then some (.host (BitVec.ofNat 32 w))
  else if nbits = 16 then
    let v := BitVec.ofNat 16 w
    some (.busWrite (slice v 8 8) (slice v 0 8))
  else if nbits ≤ 8 then
    if w = 0xAA then some (.busRead 0xAA 22)
    else if w = 0xF6 then some (.busRead 0xF6 2)
    else if w = 0x09 then some (.internal 9)
    else if w < 4 then some (.delay 3 (BitVec.ofNat 2 w))
    else none
  else none

/-- What the decoder reads from a word of spec/opcode_table.json; `none` where it refuses. -/
def decodeTableWord (nbits w : Nat) : Option Instr :=
  match tableImage nbits w with
  | none => none
  | some c =>
    match decode c with
    | .ok i => some i
    | .error _ => none

/-! ### Text form of host programs (R90)

What R90 leaves open of the form of a line is chosen in notes/assumptions/16.md (DESIGN CHOICE). -/

/-- One line of a host program. -/
inductive AsmLine where
  | init (a m : U8)
  | measure
  | getTemp
  | getPress
  | getCal
  | getStatus
  /-- `.word`: any raw word, an illegal one too. -/
  | word (w : U32)
  deriving DecidableEq, Repr

/-- R90: "`INIT a, m` is `(m << 16) | (a << 8) | 0x01`, and each other mnemonic is its opcode". -/
def AsmLine.assemble : AsmLine → U32
  | .init a m => (m.setWidth 32 <<< 16) ||| (a.setWidth 32 <<< 8) ||| 0x01
  | .measure => 0x02
  | .getTemp => 0x03
  | .getPress => 0x04
  | .getCal => 0x05
  | .getStatus => 0x06
  | .word w => w

/-- The digit's value in base 16, either case. -/
def hexDigit (c : Char) : Option Nat :=
  if '0'.val ≤ c.val ∧ c.val ≤ '9'.val then some (c.toNat - '0'.toNat)
  else if 'a'.val ≤ c.val ∧ c.val ≤ 'f'.val then some (c.toNat - 'a'.toNat + 10)
  else if 'A'.val ≤ c.val ∧ c.val ≤ 'F'.val then some (c.toNat - 'A'.toNat + 10)
  else none

/-- The number that a string of digits writes in a base; `none` for a character that is no digit of it. -/
def digits (base : Nat) : Nat → List Char → Option Nat
  | acc, [] => some acc
  | acc, c :: cs =>
    match hexDigit c with
    | some d => if d < base then digits base (acc * base + d) cs else none
    | none => none

/-- A number in decimal or `0x` hexadecimal, of one or more digits with leading zeros allowed (DESIGN CHOICE,
notes/assumptions/16.md). -/
def number : List Char → Option Nat
  | [] => none
  | '0' :: 'x' :: [] => none
  | '0' :: 'x' :: cs => digits 16 0 cs
  | cs => digits 10 0 cs

/-- A number of at most `2^width - 1`. -/
def numberOf (width : Nat) (cs : List Char) : Option (BitVec width) :=
  match number cs with
  | some n => if n < 2 ^ width then some (BitVec.ofNat width n) else none
  | none => none

/-- Cut a line into words at blanks; `,` is a word of its own; `;` starts a comment (R90). `word` holds the word in
progress, last character first. -/
def tokens : List Char → List Char → List (List Char)
  | word, [] => if word = [] then [] else [word.reverse]
  | word, c :: cs =>
    let done := if word = [] then [] else [word.reverse]
    if c = ';' then done
    else if c = ' ' ∨ c = '\t' then done ++ tokens [] cs
    else if c = ',' then done ++ [','] :: tokens [] cs
    else tokens (c :: word) cs

/-- The line that a list of words writes. After `.word` the number has one or more digits, leading zeros among them, as long
as its value is below 2^32; R90 fixes no count of digits (DESIGN CHOICE, notes/assumptions/16.md). -/
def parseTokens : List (List Char) → Option AsmLine
  | [['I','N','I','T'], a, [','], m] =>
    match numberOf 8 a, numberOf 8 m with
    | some a, some m => some (.init a m)
    | _, _ => none
  | [['M','E','A','S','U','R','E']] => some .measure
  | [['G','E','T','_','T','E','M','P']] => some .getTemp
  | [['G','E','T','_','P','R','E','S','S']] => some .getPress
  | [['G','E','T','_','C','A','L']] => some .getCal
  | [['G','E','T','_','S','T','A','T','U','S']] => some .getStatus
  | [['.','w','o','r','d'], '0' :: 'x' :: ds] =>
    match numberOf 32 ('0' :: 'x' :: ds) with
    | some w => some (.word w)
    | none => none
  | _ => none

/-- Assemble a program: one word for each line that holds a command, none for a blank or comment line, and no program
if a line is neither. -/
def assembleText : List (List Char) → Option (List U32)
  | [] => some []
  | line :: rest =>
    match tokens [] line, assembleText rest with
    | [], ws => ws
    | _ :: _, none => none
    | toks, some ws =>
      match parseTokens toks with
      | some l => some (l.assemble :: ws)
      | none => none

end Sys2Proof
end

