-- ==== Sys2Proof/Machine/Operands.lean ====
section
/-! DEFINITION. Operand forms: the register map (R52), the per-mode table (R76), the transactions (R74, R75), the layouts
of the calibration block and of the raw samples (R77, R78), and operand extension (R174). -/

namespace Sys2Proof.Machine

open Sys2Proof

/-! ### Register map (R52) -/

/-- Base of the 22-byte calibration table. -/
def regCalBase : U8 := 0xAA
/-- Control register. -/
def regControl : U8 := 0xF4
/-- Data register MSB; LSB is `0xF7` and XLSB `0xF8`, reached only as later bytes of a read (R71). -/
def regDataMsb : U8 := 0xF6
/-- Length of the calibration block in bytes (R6). -/
def calBytes : Nat := 22

/-! ### The per-mode lookup table (R76) -/

/-- One row of R76. -/
structure ModeRow where
  /-- pressure command byte -/
  pcmd    : U8
  /-- `t_conv_T` in ns -/
  tConvT  : Nat
  /-- `t_conv_P` in ns -/
  tConvP  : Nat
  /-- `up_shift = 8 - oss` -/
  upShift : Nat
  /-- `k_b7 = 50000 >> oss` -/
  kB7     : U32
  deriving DecidableEq, Repr

/-- R76: "a single lookup table indexed by the oversampling enum". Every mode-dependent value but the `<< oss` of step
P5 is read here. -/
def modeTable (oss : U2) : ModeRow :=
  match oss.toNat with
  | 0 => ⟨0x34, 5000000, 5000000, 8, 50000⟩
  | 1 => ⟨0x74, 8000000, 8000000, 7, 25000⟩
  | 2 => ⟨0xB4, 14000000, 14000000, 6, 12500⟩
  | _ => ⟨0xF4, 26000000, 26000000, 5, 6250⟩

/-! ### Transactions (R74, R75) -/

/-- WR_TCMD's payload (R72). -/
def tempCommand : U8 := 0x2E

/-- A write of one payload byte to the control register. -/
def controlWrite (addr payload : U8) : Tx := .write addr regControl [payload]

/-- The issue event of a request (R38). -/
def Request.issueEvent : Request → Event
  | .bus (.write addr reg payload) => .w addr reg payload
  | .bus (.read addr reg count) => .r addr reg count
  | .delay ns => .d ns

/-- What an input means to a pending request. -/
inductive Verdict where
  /-- `Ok`, with the bytes of a read, and the event it appends -/
  | ok (bytes : List U8) (event : Event)
  /-- `Err(e)` and the event it appends -/
  | err (e : BusError) (event : Event)
  /-- an `Ok` of a read with another number of bytes than was asked -/
  | wrongLength
  /-- no answer to this request: nothing arrived, a late answer, or an answer of the other kind -/
  | unrelated
  /-- an action of the host, which is no answer -/
  | hostAction
  deriving DecidableEq, Repr

/-- The contracts of the primitives, R154 to R156. A delay has no failure answer. A late answer to an abandoned request is
no answer to this one, whatever its kind and length (R249, R281). An answer of the other kind can only belong to an
abandoned request too (DEDUCED, notes/assumptions/5.md). -/
def Request.verdict : Request → Input → Verdict
  | _, .quiet => .unrelated
  | _, .command _ => .hostAction
  | _, .reset => .hostAction
  | _, .late _ => .unrelated
  | .bus (.write _ _ _), .writeOk => .ok [] .wOk
  | .bus (.write _ _ _), .busErr e => .err e (.wErr e)
  | .bus (.write _ _ _), .readOk _ => .unrelated
  | .bus (.write _ _ _), .delayDone => .unrelated
  | .bus (.read _ _ n), .readOk bytes => if bytes.length = n then .ok bytes (.rOk bytes) else .wrongLength
  | .bus (.read _ _ _), .busErr e => .err e (.rErr e)
  | .bus (.read _ _ _), .writeOk => .unrelated
  | .bus (.read _ _ _), .delayDone => .unrelated
  | .delay _, .delayDone => .ok [] .dDone
  | .delay _, .writeOk => .unrelated
  | .delay _, .readOk _ => .unrelated
  | .delay _, .busErr _ => .unrelated

/-! ### Byte lists into staging fields

R155 fixes the lengths, so the defaults of `getD` and the zeros of `calBlock` never reach a state. -/

/-- The 22 bytes of RD_CAL (R141). -/
def calBlock (bytes : List U8) : Vector U8 22 :=
  if h : bytes.length = 22 then ⟨bytes.toArray, h⟩ else State.reset.stgCal

/-- The two bytes of RD_T (R148). -/
def rawTOf (bytes : List U8) : RawT := ⟨bytes.getD 0 0, bytes.getD 1 0⟩

/-- The three bytes of RD_P (R151). -/
def rawPOf (bytes : List U8) : RawP := ⟨bytes.getD 0 0, bytes.getD 1 0, bytes.getD 2 0⟩

/-! ### The calibration block (R78, R142) -/

/-- R142: `cal[k] <- {stg_cal[2k], stg_cal[2k+1]}`, the even byte the more significant. -/
def decodeCal (block : Vector U8 22) : Cal where
  ac1 := block[0] ++ block[1]
  ac2 := block[2] ++ block[3]
  ac3 := block[4] ++ block[5]
  ac4 := block[6] ++ block[7]
  ac5 := block[8] ++ block[9]
  ac6 := block[10] ++ block[11]
  b1  := block[12] ++ block[13]
  b2  := block[14] ++ block[15]
  mb  := block[16] ++ block[17]
  mc  := block[18] ++ block[19]
  md  := block[20] ++ block[21]

/-- The patterns in index order (R25, R83). -/
def Cal.patterns (c : Cal) : List U16 :=
  [c.ac1, c.ac2, c.ac3, c.ac4, c.ac5, c.ac6, c.b1, c.b2, c.mb, c.mc, c.md]

/-! ### Operand extension (R174) -/

/-- `sext_32` of a coefficient typed S16. -/
def sext32 (v : U16) : S32 := v.signExtend 32

/-- `zext_32` of a coefficient typed U16. -/
def zext32 (v : U16) : U32 := v.setWidth 32

/-! ### Raw counts -/

/-- R177: `UT := zext_32({b0, b1})`. -/
def rawTempCount (t : RawT) : S32 := (t.msb ++ t.lsb : BitVec 16).setWidth 32

/-- R178: `UP := zext_32({b0, b1, b2} >> (8 - oss))`, a logical shift of the 24-bit value. -/
def rawPressCount (p : RawP) (oss : U2) : U32 :=
  ((p.msb ++ p.lsb ++ p.xlsb : BitVec 24) >>> (modeTable oss).upShift).setWidth 32

end Sys2Proof.Machine
end

