-- ==== Sys2Proof/Machine/Ops.lean ====
section
/-! DEFINITION. The shared operations: requests and answers (R11, R140), responses (R100), error entry (R250), the host
command protocol (R100, R257), the micro-operation protocol (R140), reset (R280) and which operation is next. -/

namespace Sys2Proof.Machine

open Sys2Proof

/-! ### The FSM -/

/-- R21: the code of an FSM state. -/
def Fsm.code : Fsm → U4
  | .uncal => 0
  | .sRdCal => 1
  | .ready => 2
  | .sWrTcmd => 3
  | .sDlyT => 4
  | .sRdT => 5
  | .sWrPcmd => 6
  | .sDlyP => 7
  | .sRdP => 8
  | .sComp => 9

/-- R21: a host command starts and ends in a stable state. -/
def Fsm.isStable : Fsm → Bool
  | .uncal | .ready => true
  | .sRdCal | .sWrTcmd | .sDlyT | .sRdT | .sWrPcmd | .sDlyP | .sRdP | .sComp => false

/-- R86: the micro-operation that a transient state issues, for the committed mode. -/
def Fsm.microOp (f : Fsm) (oss : U2) : Option Instr :=
  match f with
  | .uncal | .ready => none
  | .sRdCal => some .rdCal
  | .sWrTcmd => some .wrTcmd
  | .sDlyT => some (.dlyT oss)
  | .sRdT => some .rdT
  | .sWrPcmd => some (.wrPcmd oss)
  | .sDlyP => some (.dlyP oss)
  | .sRdP => some .rdP
  | .sComp => some .comp

/-! ### Requests of the micro-operations -/

/-- R141: at `stg_addr`, since `dev_addr` is not committed yet. -/
def State.rdCalRequest (s : State) : Request := .bus (.read s.stgAddr regCalBase calBytes)
/-- R144. -/
def State.wrTcmdRequest (s : State) : Request := .bus (controlWrite s.devAddr tempCommand)
/-- R146. -/
def State.dlyTRequest (s : State) : Request := .delay (modeTable s.oss).tConvT
/-- R148. -/
def State.rdTRequest (s : State) : Request := .bus (.read s.devAddr regDataMsb 2)
/-- R149. -/
def State.wrPcmdRequest (s : State) : Request := .bus (controlWrite s.devAddr (modeTable s.oss).pcmd)
/-- R150. -/
def State.dlyPRequest (s : State) : Request := .delay (modeTable s.oss).tConvP
/-- R151: one transaction of three bytes (C5). -/
def State.rdPRequest (s : State) : Request := .bus (.read s.devAddr regDataMsb 3)

/-- R140's column "request issued on entry". -/
def State.entryRequest (s : State) : Option Request :=
  match s.fsm with
  | .uncal | .ready | .sComp => none
  | .sRdCal => some s.rdCalRequest
  | .sWrTcmd => some s.wrTcmdRequest
  | .sDlyT => some s.dlyTRequest
  | .sRdT => some s.rdTRequest
  | .sWrPcmd => some s.wrPcmdRequest
  | .sDlyP => some s.dlyPRequest
  | .sRdP => some s.rdPRequest

/-- R140: the issue of a request "sets `pend` and appends the issue event to `trace`". -/
def State.issue (r : Request) (s : State) : State :=
  { s with pend := some r, trace := s.trace ++ [r.issueEvent] }

/-- R140: the answer of a request "appends the answer event, sets `pend <- none`"; the input is used up. -/
def State.answered (event : Event) (rest : List Input) (s : State) : State :=
  { s with pend := none, trace := s.trace ++ [event], inputs := rest }

/-- One input is used up and nothing else happens. -/
def State.dropInput (s : State) : State := { s with inputs := s.inputs.tail }

/-- `fsm <- f` (R10). -/
def State.goto (f : Fsm) (s : State) : State := { s with fsm := f }

/-- R140: "Each transient state with a request issues it on entry." A state whose request is not yet issued issues it;
every other state is unchanged. -/
def State.enter (s : State) : State :=
  match s.pend, s.entryRequest with
  | none, some r => s.issue r
  | none, none => s
  | some _, _ => s

/-! ### Responses -/

/-- R11: `respond(status, data)` hands the host one response. -/
def State.respond (status : U32) (data : Data) (busError : Option BusError) (s : State) : State :=
  { s with responses := s.responses ++ [⟨status, data, busError⟩] }

/-- R100, for every command except GET_STATUS: "the block first writes `last_status <- status`", then responds. The
status word is built after every other write of the command. R83 attaches `last_bus_error` to the two bus codes. -/
def State.endCommand (code : OutcomeCode) (step : StepCode) (cls : Option BusClass) (data : Data) (s : State) : State :=
  let w := s.statusWord code step cls
  { s with lastStatus := w }.respond w data (if code.wrapsBusError then s.lastBusError else none)

/-! ### Errors -/

/-- Error entry, R250 with R11's `raise Fail(code, step, e)`, in one operation: the block records the bus error, sets
`fsm` to the stable state the command started in, and returns the status word. There is no vector, no handler, no mode
change and no return operation (R253). -/
def State.raiseFail (code : OutcomeCode) (step : StepCode) (cls : Option BusClass) (busError : Option BusError)
    (home : Fsm) (s : State) : State :=
  { s with lastBusError := busError, fsm := home }.endCommand code step cls .none

/-- R244, R245: a command turned away writes `last_status` only, so `last_bus_error` and `fsm` keep their values. -/
def State.reject (code : OutcomeCode) (s : State) : State :=
  s.raiseFail code .noStep none s.lastBusError s.fsm

/-- The aborts R143 and R153: `last_bus_error <- e`, `fsm` back to its stable state, and the class of `e` in the word. -/
def State.abort (code : OutcomeCode) (step : StepCode) (home : Fsm) (e : BusError) (s : State) : State :=
  s.raiseFail code step (some (busErrorClass e)) (some e) home

/-- R199: `fault_dz <- 1`, `last_bus_error <- none`, `fsm <- READY`, and COMP_DIV_ZERO with the divisor's step code. -/
def State.compFault (divisor : StepCode) (s : State) : State :=
  { s with faultDz := true }.raiseFail .compDivZero divisor none none .ready

/-! ### Protocols -/

/-- R100: a host command is accepted only in a stable state. One issued while another is outstanding has no step (R257). -/
def hostCommand (body : State → State) (s : State) : Host.Outcome State Fault Refusal :=
  if s.fsm.isStable then .next (body s) else .refused .commandOutstanding

/-- A pending request meets the next input (R140, R154 to R156). With nothing there the state holds, for ever if nothing
ever comes (R159, R264). An action of the host is `State.fetch`'s to take, so it is left alone here
(notes/assumptions/15.md). -/
def awaitAnswer (req : Request) (onOk : List U8 → State → State) (onErr : BusError → State → State) (s : State) :
    Host.Outcome State Fault Refusal :=
  match s.inputs with
  | [] => .next s
  | a :: rest =>
    match req.verdict a with
    | .ok bytes ev => .next (onOk bytes (s.answered ev rest))
    | .err e ev => .next (onErr e (s.answered ev rest))
    | .wrongLength => .refused .answerLength
    | .unrelated => .next s.dropInput
    | .hostAction => .next s

/-- A micro-operation runs only in the state that issues it (R86, R140). Its request is issued first, and then answered
in a later step. -/
def microOp (i : Instr) (req : Request) (onOk : List U8 → State → State) (onErr : BusError → State → State) (s : State) :
    Host.Outcome State Fault Refusal :=
  if s.fsm.microOp s.oss = some i then
    if s.pend = none then .next (s.issue req)
    else if s.pend = some req then awaitAnswer req onOk onErr s
    else .refused .microOpOutOfState
  else .refused .microOpOutOfState

/-! ### Reset and the next operation -/

/-- R280: reset sets every field of the block to its reset value. What is still to come from outside and the responses
the host already holds are not the block's fields
(DESIGN CHOICE, notes/assumptions/9.md). A command that was outstanding gets no response (R281). -/
def State.resetAction (s : State) : State :=
  { State.reset with inputs := s.inputs, responses := s.responses }

/-- What the block does next. -/
inductive Fetched where
  /-- the reset action, in the state whose reset input is used up -/
  | reset (s : State)
  /-- nothing is to do: the block is idle, or a late answer is thrown away -/
  | idle (s : State)
  /-- an operation, in the state whose command word is used up where it is a host command -/
  | run (i : Instr) (s : State)
  deriving DecidableEq, Repr

/-- Which operation is next. Reset wins over everything (R249). COMP waits for nothing from outside, so it runs before
any input but a reset is looked at. A command word is decoded (R82) and handed to its meaning. Otherwise a transient
state runs its micro-operation, and a stable state is idle: an answer that finds `pend = none` there is discarded
(R281, D43). A late answer is discarded in every state (R249): here in a stable one, by `awaitAnswer` in a waiting one, and
after COMP has run in `S_COMP`. -/
def State.fetch (s : State) : Fetched :=
  match s.inputs with
  | .reset :: rest => .reset { s with inputs := rest }
  | .command w :: rest =>
    if s.fsm = .sComp then .run .comp s else .run (decodeHost w) { s with inputs := rest }
  | _ =>
    match s.fsm.microOp s.oss with
    | some i => .run i s
    | none => .idle s.dropInput

end Sys2Proof.Machine
end

