-- ==== Sys2Proof/Machine/BusSequence.lean ====
section
/-! DEFINITION. The micro-operations that make a request (41_bus_sequence.md). -/

namespace Sys2Proof.Machine

open Sys2Proof

/-- R142, the INIT commit, on the staged fields. -/
def State.commitInit (s : State) : State :=
  { s with
    devAddr := s.stgAddr
    oss := s.stgMode
    cal := decodeCal s.stgCal
    calValid := true
    lastBusError := none
    fsm := .ready }.endCommand .ok .noStep none .none

/-- RD_CAL (R141): on `Ok` stage the block and commit (R142), on `Err(e)` abort (R143). -/
def execRdCal (s : State) : Host.Outcome State Fault Refusal :=
  microOp .rdCal s.rdCalRequest
    (fun c t => { t with stgCal := calBlock c }.commitInit)
    (State.abort .initBusError .rdCal .uncal) s

/-- WR_TCMD (R144). -/
def execWrTcmd (s : State) : Host.Outcome State Fault Refusal :=
  microOp .wrTcmd s.wrTcmdRequest
    (fun _ => State.goto .sDlyT)
    (State.abort .measBusError .wrTcmd .ready) s

/-- DLY_T (R146). A delay has no failure answer (R156), so its second continuation is never taken. -/
def execDlyT (mm : U2) (s : State) : Host.Outcome State Fault Refusal :=
  microOp (.dlyT mm) s.dlyTRequest (fun _ => State.goto .sRdT) (fun _ => id) s

/-- RD_T (R148). Nothing host-visible is written. -/
def execRdT (s : State) : Host.Outcome State Fault Refusal :=
  microOp .rdT s.rdTRequest
    (fun b t => { t with stgT := rawTOf b }.goto .sWrPcmd)
    (State.abort .measBusError .rdT .ready) s

/-- WR_PCMD (R149). -/
def execWrPcmd (mm : U2) (s : State) : Host.Outcome State Fault Refusal :=
  microOp (.wrPcmd mm) s.wrPcmdRequest
    (fun _ => State.goto .sDlyP)
    (State.abort .measBusError .wrPcmd .ready) s

/-- DLY_P (R150). A delay has no failure answer (R156), so its second continuation is never taken. -/
def execDlyP (mm : U2) (s : State) : Host.Outcome State Fault Refusal :=
  microOp (.dlyP mm) s.dlyPRequest (fun _ => State.goto .sRdP) (fun _ => id) s

/-- RD_P (R151). -/
def execRdP (s : State) : Host.Outcome State Fault Refusal :=
  microOp .rdP s.rdPRequest
    (fun b t => { t with stgP := rawPOf b }.goto .sComp)
    (State.abort .measBusError .rdP .ready) s

end Sys2Proof.Machine
end

