-- ==== Sys2Proof/Machine/Arith.lean ====
section
/-! DEFINITION. The pipeline's operators on 32-bit patterns (42_compensation.md R170 to R175). `+`, `-` and `*` of `BitVec 32`
are R171's: the true result modulo 2^32. -/

namespace Sys2Proof.Machine

open Sys2Proof

/-- `a << n` (R171): `(a * 2^n)` modulo 2^32. -/
def shl (a : BitVec 32) (n : Nat) : BitVec 32 := a <<< n

/-- `a >> n` on `S32` (R172): `floor(a / 2^n)`, the sign bit copied in. -/
def sar (a : S32) (n : Nat) : S32 := a.sshiftRight n

/-- `a >> n` on `U32` (R172): `floor(a / 2^n)`, zeros shifted in. -/
def shr (a : U32) (n : Nat) : U32 := a >>> n

/-- `a / b` on `S32` (R173): truncates toward zero. A zero divisor is caught before this is used (R199). -/
def divS (a b : S32) : S32 := a.sdiv b

/-- `a / b` on `U32` (R173): the floor. A zero divisor is caught before this is used (R199). -/
def divU (a b : U32) : U32 := a.udiv b

end Sys2Proof.Machine
end

