-- ==== Sys2Proof/Machine/Compensation.lean ====
section
/-! DEFINITION. The fixed-point compensation pipeline (42_compensation.md): one definition for each step T1 to T4 and P1 to
P15, the pipeline R200, and COMP. Each step is evaluated exactly as parenthesized (R176). -/

namespace Sys2Proof.Machine

open Sys2Proof

/-! ### Temperature steps -/

/-- T1 (R180). -/
def stepT1 (c : Cal) (ut : S32) : S32 := sar ((ut - zext32 c.ac6) * zext32 c.ac5) 15
/-- The divisor of T2, `x1 + MD` (R181). -/
def divisorT2 (c : Cal) (x1 : S32) : S32 := x1 + sext32 c.md
/-- T2 (R181), for a divisor other than 0. -/
def stepT2 (c : Cal) (x1 : S32) : S32 := divS (shl (sext32 c.mc) 11) (divisorT2 c x1)
/-- T3 (R182). -/
def stepT3 (x1 x2 : S32) : S32 := x1 + x2
/-- T4 (R183). -/
def stepT4 (b5 : S32) : S32 := sar (b5 + 8) 4

/-! ### Pressure steps -/

/-- P1 (R184). -/
def stepP1 (b5 : S32) : S32 := b5 - 4000
/-- P2 (R185). -/
def stepP2 (c : Cal) (b6 : S32) : S32 := sar (sext32 c.b2 * sar (b6 * b6) 12) 11
/-- P3 (R186). -/
def stepP3 (c : Cal) (b6 : S32) : S32 := sar (sext32 c.ac2 * b6) 11
/-- P4 (R187). -/
def stepP4 (x1 x2 : S32) : S32 := x1 + x2
/-- P5 (R188). -/
def stepP5 (c : Cal) (oss : U2) (x3 : S32) : S32 := divS (shl (sext32 c.ac1 * 4 + x3) oss.toNat + 2) 4
/-- P6 (R189). -/
def stepP6 (c : Cal) (b6 : S32) : S32 := sar (sext32 c.ac3 * b6) 13
/-- P7 (R190). -/
def stepP7 (c : Cal) (b6 : S32) : S32 := sar (sext32 c.b1 * sar (b6 * b6) 12) 16
/-- P8 (R191). -/
def stepP8 (x1 x2 : S32) : S32 := sar ((x1 + x2) + 2) 2
/-- P9 (R192). -/
def stepP9 (c : Cal) (x3 : S32) : U32 := shr (zext32 c.ac4 * (x3 + 32768)) 15
/-- P10 (R193). -/
def stepP10 (oss : U2) (up : U32) (b3 : S32) : U32 := (up - b3) * (modeTable oss).kB7
/-- P11 (R194), for `b4` other than 0; the comparison is R175's. -/
def stepP11 (b7 b4 : U32) : U32 := if b7 < 0x80000000 then divU (b7 * 2) b4 else divU b7 b4 * 2
/-- P12 (R195): `p` is read as `S32` from here on. -/
def stepP12 (p : S32) : S32 := sar p 8 * sar p 8
/-- P13 (R196). -/
def stepP13 (x1 : S32) : S32 := sar (x1 * 3038) 16
/-- P14 (R197). -/
def stepP14 (p : S32) : S32 := sar ((-7357) * p) 16
/-- P15 (R198). -/
def stepP15 (p x1 x2 : S32) : S32 := p + sar ((x1 + x2) + 3791) 4

/-! ### The pipeline -/

/-- What the pipeline ends in. -/
inductive CompResult where
  /-- every step ran; the datapath as the last write to each name left it -/
  | done (dp : Datapath)
  /-- a divisor was 0: T2's or P11's (R199) -/
  | divByZero (divisor : StepCode)
  deriving DecidableEq, Repr

/-- R200, line by line. By R179 its inputs are the coefficients, `oss`, `UT` and `UP` and nothing else. -/
def compensate (c : Cal) (oss : U2) (ut : S32) (up : U32) : CompResult :=
  let x1 := stepT1 c ut
  if divisorT2 c x1 = 0 then .divByZero .compT
  else
    let x2 := stepT2 c x1
    let b5 := stepT3 x1 x2
    let t := stepT4 b5
    let b6 := stepP1 b5
    let x1 := stepP2 c b6
    let x2 := stepP3 c b6
    let x3 := stepP4 x1 x2
    let b3 := stepP5 c oss x3
    let x1 := stepP6 c b6
    let x2 := stepP7 c b6
    let x3 := stepP8 x1 x2
    let b4 := stepP9 c x3
    let b7 := stepP10 oss up b3
    if b4 = 0 then .divByZero .compP
    else
      let p := stepP11 b7 b4
      let x1 := stepP12 p
      let x1 := stepP13 x1
      let x2 := stepP14 p
      let p := stepP15 p x1 x2
      .done { x1, x2, x3, b3, b5, b6, t, p, b4, b7 }

/-- The pipeline on the state's own inputs (R177 to R179): the staged bytes, the committed coefficients and mode. -/
def State.compensation (s : State) : CompResult :=
  compensate s.cal s.oss (rawTempCount s.stgT) (rawPressCount s.stgP s.oss)

/-- R152, the MEASURE commit: every reading field together. -/
def State.commitMeasure (s : State) : State :=
  { s with
    rawT := s.stgT
    rawP := s.stgP
    tempTenths := s.dp.t
    pressure := s.dp.p
    rdValid := true
    lastBusError := none
    fsm := .ready }.endCommand .ok .noStep none .none

/-- R200: COMP computes and commits in one step, or raises R199's fault, which writes nothing else, `dp` included
(DEDUCED, notes/assumptions/8.md). -/
def State.comp (s : State) : State :=
  match s.compensation with
  | .done dp => { s with dp := dp }.commitMeasure
  | .divByZero divisor => s.compFault divisor

/-- COMP (R200): one step in `S_COMP`, with no request. -/
def execComp (s : State) : Host.Outcome State Fault Refusal :=
  if s.fsm.microOp s.oss = some .comp then .next s.comp else .refused .microOpOutOfState

end Sys2Proof.Machine
end

