-- ==== Sys2Proof/Machine/HostCommands.lean ====
section
/-! DEFINITION. The host commands (40_host_commands.md). -/

namespace Sys2Proof.Machine

open Sys2Proof

/-- R101. The state is checked before the operand (R248). -/
def State.init (a m : U8) (s : State) : State :=
  if s.calValid then s.reject .alreadyInitialized
  else if 3 < m.toNat then s.reject .modeInvalid
  else { s with stgAddr := a, stgMode := m.setWidth 2 }.goto .sRdCal

/-- INIT (R101). -/
def execInit (a m : U8) (s : State) : Host.Outcome State Fault Refusal := hostCommand (State.init a m) s

/-- R105, up to the first micro-operation. -/
def State.measure (s : State) : State :=
  if s.calValid then s.goto .sWrTcmd else s.reject .notCalibrated

/-- MEASURE (R105). -/
def execMeasure (s : State) : Host.Outcome State Fault Refusal := hostCommand State.measure s

/-- R110. -/
def State.getTemp (s : State) : State :=
  if s.rdValid then s.endCommand .ok .noStep none (.temp s.tempTenths) else s.reject .noReading

/-- GET_TEMP (R110). -/
def execGetTemp (s : State) : Host.Outcome State Fault Refusal := hostCommand State.getTemp s

/-- R114. -/
def State.getPress (s : State) : State :=
  if s.rdValid then s.endCommand .ok .noStep none (.press s.pressure) else s.reject .noReading

/-- GET_PRESS (R114). -/
def execGetPress (s : State) : Host.Outcome State Fault Refusal := hostCommand State.getPress s

/-- R118. -/
def State.getCal (s : State) : State :=
  if s.calValid then s.endCommand .ok .noStep none (.cal s.cal.patterns) else s.reject .notCalibrated

/-- GET_CAL (R118). -/
def execGetCal (s : State) : Host.Outcome State Fault Refusal := hostCommand State.getCal s

/-- R122: it returns `last_status` and writes nothing. -/
def State.getStatus (s : State) : State := s.respond s.lastStatus .none none

/-- GET_STATUS (R122). -/
def execGetStatus (s : State) : Host.Outcome State Fault Refusal := hostCommand State.getStatus s

/-- ILLEGAL (R126). No bit of the word is read. -/
def execIllegal (_w : U32) (s : State) : Host.Outcome State Fault Refusal :=
  hostCommand (State.reject .illegalCommand) s

end Sys2Proof.Machine
end

