-- ==== Sys2Proof/Machine/Dispatch.lean ====
section
/-! DEFINITION. One arm for each instruction. -/

namespace Sys2Proof.Machine

open Sys2Proof

def exec (i : Instr) (s : State) : Host.Outcome State Fault Refusal :=
  match i with
  -- host commands
  | .init a m => Sys2Proof.Machine.execInit a m s
  | .measure => Sys2Proof.Machine.execMeasure s
  | .getTemp => Sys2Proof.Machine.execGetTemp s
  | .getPress => Sys2Proof.Machine.execGetPress s
  | .getCal => Sys2Proof.Machine.execGetCal s
  | .getStatus => Sys2Proof.Machine.execGetStatus s
  | .illegal w => Sys2Proof.Machine.execIllegal w s
  -- micro-operations
  | .rdCal => Sys2Proof.Machine.execRdCal s
  | .wrTcmd => Sys2Proof.Machine.execWrTcmd s
  | .dlyT mm => Sys2Proof.Machine.execDlyT mm s
  | .rdT => Sys2Proof.Machine.execRdT s
  | .wrPcmd mm => Sys2Proof.Machine.execWrPcmd mm s
  | .dlyP mm => Sys2Proof.Machine.execDlyP mm s
  | .rdP => Sys2Proof.Machine.execRdP s
  | .comp => Sys2Proof.Machine.execComp s

end Sys2Proof.Machine
end

