-- ==== Sys2Proof/Machine/Step.lean ====
section
/-! DEFINITION. One step of the machine, and how a word is placed so that the next step runs it. -/

namespace Sys2Proof.Machine

open Sys2Proof

/-- What the step adds after an operation: if it moved the FSM into a transient state, that state "issues it on entry"
(R140), so that `pend` is `none` exactly when the FSM is `UNCAL`, `READY` or `S_COMP` (R35, R41.4; DEDUCED,
notes/assumptions/4.md). -/
def enterOutcome : Host.Outcome State Fault Refusal → Host.Outcome State Fault Refusal
  | .next s => .next s.enter
  | .fault r => .fault r
  | .refused r => .refused r

/-- One step. -/
def step (s : State) : Host.Outcome State Fault Refusal :=
  match s.fetch with
  | .reset t => .next t.resetAction
  | .idle t => .next t
  | .run i t => enterOutcome (exec i t)

/-- The FSM state that issues a micro-operation (R86), and the mode its image names. -/
def State.placeMicroOp (f : Fsm) (mode : Option U2) (s : State) : State :=
  { s with fsm := f, pend := none, oss := mode.getD s.oss, inputs := .quiet :: s.inputs }

/-- The host issues the word now; a block that is not idle is first put back into its stable state, since it could not
take the word there (R100). -/
def State.placeCommand (w : U32) (s : State) : State :=
  if s.fsm.isStable then { s with inputs := .command w :: s.inputs }
  else { s with fsm := if s.calValid then .ready else .uncal, pend := none, inputs := .command w :: s.inputs }

/-- The state in which the very next step runs the instruction of an opcode-table word (notes/assumptions/6.md): a host
word is the next thing the host sends, and a micro-operation is the one its FSM state issues. -/
def State.withFetchWord (s : State) (nbits w : Nat) : State :=
  match decodeTableWord nbits w with
  | none => s
  | some i =>
    match i with
    | .init _ _ | .measure | .getTemp | .getPress | .getCal | .getStatus | .illegal _ =>
      s.placeCommand (BitVec.ofNat 32 w)
    | .rdCal => s.placeMicroOp .sRdCal none
    | .wrTcmd => s.placeMicroOp .sWrTcmd none
    | .dlyT mm => s.placeMicroOp .sDlyT (some mm)
    | .rdT => s.placeMicroOp .sRdT none
    | .wrPcmd mm => s.placeMicroOp .sWrPcmd (some mm)
    | .dlyP mm => s.placeMicroOp .sDlyP (some mm)
    | .rdP => s.placeMicroOp .sRdP none
    | .comp => s.placeMicroOp .sComp none

end Sys2Proof.Machine
end

