-- ==== Sys2Proof/Machine/HostFunctions.lean ====
section
/-! DEFINITION. The host-side functions of 45_host_functions.md. They are outside the block (00_scope.md R4): pure functions
and relations on values that the block returns, which no rule of the block calls. -/

namespace Sys2Proof.Machine

open Sys2Proof

/-- R220: the exact value of the Celsius view, the rational `t / 10`. A host's floating-point rendering of it is not
modelled (DEDUCED, notes/assumptions/17.md). -/
def celsius (tenths : S32) : ℚ := (tenths.toInt : ℚ) / 10

/-- R221: the exact real value `A(p, p0) = 44330 * (1 - (p / p0)^(1 / 5.255))`. -/
noncomputable def exactAltitude (current baseline : S32) : ℝ :=
  44330 * (1 - ((current.toInt : ℝ) / (baseline.toInt : ℝ)) ^ (1 / 5.255 : ℝ))

/-- R221, R222: `h` is a result of `altitude(current, baseline)`: any integer within 1 of the exact value, and none at
all unless both pressures are positive. -/
def IsAltitude (current baseline : S32) (h : Int) : Prop :=
  0 < current.toInt ∧ 0 < baseline.toInt ∧ |(h : ℝ) - exactAltitude current baseline| ≤ 1

/-- R223: the eleven coefficients with their names, each read under its type (R25). -/
def Cal.table (c : Cal) : List (String × Int) :=
  [("AC1", c.ac1.toInt), ("AC2", c.ac2.toInt), ("AC3", c.ac3.toInt),
   ("AC4", c.ac4.toNat), ("AC5", c.ac5.toNat), ("AC6", c.ac6.toNat),
   ("B1", c.b1.toInt), ("B2", c.b2.toInt), ("MB", c.mb.toInt), ("MC", c.mc.toInt), ("MD", c.md.toInt)]

/-- R223: a text is a rendering of the calibration table if it shows every name and its decimal value; the layout is
free. -/
def IsCalibrationText (c : Cal) (text : List Char) : Prop :=
  ∀ row ∈ c.table, row.1.toList <:+: text ∧ (toString row.2).toList <:+: text

/-- R223's formatter, with a layout of the model's own, one `NAME = value` line each (DESIGN CHOICE,
notes/assumptions/19.md). -/
def formatCalibration (c : Cal) : List Char :=
  c.table.flatMap fun row => row.1.toList ++ (" = ".toList ++ ((toString row.2).toList ++ ['\n']))

/-- R224: the re-encoding, `c[2k] = cal[k][15:8]` and `c[2k+1] = cal[k][7:0]`. -/
def encodeCal (c : Cal) : Vector U8 22 :=
  #v[slice c.ac1 8 8, slice c.ac1 0 8, slice c.ac2 8 8, slice c.ac2 0 8, slice c.ac3 8 8, slice c.ac3 0 8,
     slice c.ac4 8 8, slice c.ac4 0 8, slice c.ac5 8 8, slice c.ac5 0 8, slice c.ac6 8 8, slice c.ac6 0 8,
     slice c.b1 8 8, slice c.b1 0 8, slice c.b2 8 8, slice c.b2 0 8, slice c.mb 8 8, slice c.mb 0 8,
     slice c.mc 8 8, slice c.mc 0 8, slice c.md 8 8, slice c.md 0 8]

end Sys2Proof.Machine
end

