-- ==== Sys2Proof/Safety.lean ====
section
/-! DEFINITION. The terms in which claims are made: the invariants of 10_state.md R41, and what the host can see
(R39). -/

namespace Sys2Proof.Machine

open Sys2Proof

/-- R41.1: "`cal_valid = 1` exactly when `fsm` is not `UNCAL` and not `S_RD_CAL`". -/
abbrev State.CalMatchesFsm (s : State) : Prop :=
  s.calValid = true ↔ s.fsm ≠ .uncal ∧ s.fsm ≠ .sRdCal

/-- R41.2: "`rd_valid = 1` implies `cal_valid = 1`". -/
abbrev State.ReadingNeedsCal (s : State) : Prop := s.rdValid = true → s.calValid = true

/-- R41.4 and R35: `pend` is the request that the FSM state issues on entry, and `none` where it issues none, which is
in `UNCAL`, `READY` and `S_COMP`. -/
abbrev State.PendMatchesFsm (s : State) : Prop := s.pend = s.entryRequest

/-- R122: "The flag bits of `last_status` always equal the current flags." -/
abbrev State.StatusShowsFlags (s : State) : Prop :=
  statusCal s.lastStatus = s.calValid ∧ statusRdv s.lastStatus = s.rdValid ∧ statusFlt s.lastStatus = s.faultDz

/-- The codes of R85. -/
def outcomeCodes : List U8 := [0x00, 0x01, 0x02, 0x03, 0x04, 0x05, 0x06, 0x07, 0x08, 0xFF]

/-- A status word holds no reserved code (R84 to R87): its CODE is one of R85's, its STEP is at most 9 and never a
delay's 3 or 6, its BCLS is at most 4 and 0 unless CODE is INIT_BUS_ERROR or MEAS_BUS_ERROR, and bits 31:19 are 0. -/
abbrev LegalStatus (w : U32) : Prop :=
  statusCode w ∈ outcomeCodes ∧
  (statusStep w).toNat ≤ 9 ∧ statusStep w ≠ 3 ∧ statusStep w ≠ 6 ∧
  (statusBcls w).toNat ≤ 4 ∧ (statusBcls w ≠ 0 ↔ statusCode w = 0x01 ∨ statusCode w = 0x02) ∧
  statusReserved w = 0

/-- The invariants of one state. R41.3 and R41.5 are about a step, not a state. -/
abbrev State.Inv (s : State) : Prop :=
  s.CalMatchesFsm ∧ s.ReadingNeedsCal ∧ s.PendMatchesFsm ∧ s.StatusShowsFlags ∧ LegalStatus s.lastStatus

/-- R39: "The host-visible state is exactly these". -/
structure HostView where
  cal        : List U16
  tempTenths : S32
  pressure   : S32
  lastStatus : U32
  calValid   : Bool
  rdValid    : Bool
  faultDz    : Bool
  deriving DecidableEq, Repr

/-- The host-visible part of a state (R39). -/
def State.hostView (s : State) : HostView :=
  ⟨s.cal.patterns, s.tempTenths, s.pressure, s.lastStatus, s.calValid, s.rdValid, s.faultDz⟩

/-- The reading fields, which R41.5 says change only together. -/
structure Reading where
  rawT       : RawT
  rawP       : RawP
  tempTenths : S32
  pressure   : S32
  rdValid    : Bool
  deriving DecidableEq, Repr

/-- The reading fields of a state (R41.5). -/
def State.reading (s : State) : Reading := ⟨s.rawT, s.rawP, s.tempTenths, s.pressure, s.rdValid⟩

/-- The block is idle: its FSM is stable (R21) and no request is pending (R35). This looks at one state and says nothing
of a run: R14's end of a run is `Run.ended` (Machine/Run.lean). -/
abbrev State.idle (s : State) : Prop := s.fsm.isStable = true ∧ s.pend = none

/-- R159, R264: a request is pending and nothing will ever answer it. -/
abbrev State.hung (s : State) : Prop := s.pend.isSome = true ∧ s.inputs = []

/-- R84's word as a number, with the three flags of a state: what a status word must be. -/
def State.wordOf (s : State) (code stepCode bcls : Nat) : U32 :=
  BitVec.ofNat 32 (code + 2 ^ 8 * stepCode + 2 ^ 12 * bcls + 2 ^ 16 * s.calValid.toNat + 2 ^ 17 * s.rdValid.toNat +
    2 ^ 18 * s.faultDz.toNat)

/-- R87's number of a bus error's class. -/
def bclsOf (e : BusError) : Nat :=
  match busErrorClass e with
  | .deviceAbsent => 1
  | .addressRejected => 2
  | .shortTransfer => 3
  | .other => 4

/-- Is the next thing from outside a reset? -/
abbrev State.resetNext (s : State) : Prop := s.inputs.head? = some .reset

/-- The edges of R140's table, and the two that a host command takes. A state holds on an edge to itself. -/
def Fsm.edges : Fsm → List Fsm
  | .uncal => [.uncal, .sRdCal]
  | .sRdCal => [.sRdCal, .ready, .uncal]
  | .ready => [.ready, .sWrTcmd]
  | .sWrTcmd => [.sWrTcmd, .sDlyT, .ready]
  | .sDlyT => [.sDlyT, .sRdT]
  | .sRdT => [.sRdT, .sWrPcmd, .ready]
  | .sWrPcmd => [.sWrPcmd, .sDlyP, .ready]
  | .sDlyP => [.sDlyP, .sRdP]
  | .sRdP => [.sRdP, .sComp, .ready]
  | .sComp => [.ready]

end Sys2Proof.Machine
end

