-- ==== Sys2Proof/Machine/Run.lean ====
section
/-! DEFINITION. Runs, their end and their observable result (00_scope.md R14). A run is told by what its steps show: the
command words the block takes and the responses it returns. -/

namespace Sys2Proof.Machine

open Sys2Proof

/-- A run so far. -/
structure Run where
  /-- where it stands -/
  state       : State
  /-- the host commands issued in it, oldest first -/
  commands    : List U32
  /-- the responses returned in it, oldest first -/
  responses   : List Response
  /-- the response to the last of `commands` has not been returned -/
  outstanding : Bool
  deriving DecidableEq, Repr

/-- The run in which nothing has been issued yet. A host command starts in a stable state (R21), and so does a run. -/
def Run.begin (s : State) : Run := ⟨s, [], [], false⟩

/-- The command word that the next step takes from the host, if it takes one (R100). -/
def State.takenCommand (s : State) : List U32 :=
  match s.inputs with
  | .command w :: _ => if s.fsm = .sComp then [] else [w]
  | _ => []

/-- The responses that a step from `s` to `t` returned. -/
def State.returnedBy (s t : State) : List Response := t.responses.drop s.responses.length

/-- The run after a step to `t`. A command is outstanding from the step that takes it to the step that returns its
response. A reset returns none, so the command it abandons (R281) stays without one. -/
def Run.after (r : Run) (t : State) : Run where
  state       := t
  commands    := r.commands ++ r.state.takenCommand
  responses   := r.responses ++ r.state.returnedBy t
  outstanding := (r.state.returnedBy t).isEmpty && (r.outstanding || !r.state.takenCommand.isEmpty)

/-- One step of a run; none where the machine has no step (R257). -/
def Run.next (r : Run) : Option Run :=
  match step r.state with
  | .next t => some (r.after t)
  | .fault _ => none
  | .refused _ => none

/-- `k` steps of a run. -/
def Run.steps : Nat → Run → Option Run
  | 0, r => some r
  | k + 1, r =>
    match r.next with
    | some r' => r'.steps k
    | none => none

/-- R14: "A run has *ended* when both of these hold: the response to its last command has been returned, and no bus
transaction or delay is pending." A run without a command has no such response and has not ended, and a run whose last
command a reset abandoned has not ended (DESIGN CHOICE, notes/assumptions/25.md). -/
def Run.ended (r : Run) : Bool := !r.commands.isEmpty && !r.outstanding && r.state.pend.isNone

/-- The run has issued exactly these commands and has ended: nothing of the program is still to come. -/
def Run.completes (r : Run) (program : List U32) : Bool := r.commands == program && r.ended

/-- R14: "The observable result of a run is three things". -/
structure RunResult where
  /-- the sequence of responses -/
  responses : List Response
  /-- the final values of the host-visible state (R39) -/
  view      : HostView
  /-- `st.trace` -/
  trace     : List Event
  deriving DecidableEq, Repr

/-- The observable result (R14). -/
def Run.result (r : Run) : RunResult := ⟨r.responses, r.state.hostView, r.state.trace⟩

end Sys2Proof.Machine
end

