-- ==== Sys2Proof/Safety/IntegerPipeline.lean ====
section
/-! DEFINITION. The compensation formula of 42_compensation.md read over the integers: exact arithmetic, with an explicit wrap
to 32 bits where R171 wraps and an explicit floor or truncation where R172 and R173 divide. Claims compare the machine's
bit-vector pipeline with it. -/

namespace Sys2Proof.Safety

open Sys2Proof Sys2Proof.Machine

/-- The `S32` reading of an integer modulo 2^32 (R8, R171). -/
def wrapS (x : Int) : Int := x.bmod (2 ^ 32)

/-- The `U32` reading of an integer modulo 2^32 (R8, R171). -/
def wrapU (x : Int) : Int := x % 2 ^ 32

/-- `floor(x / 2^n)`: the right shift of R172 on a value already read as its type says. -/
def floorShift (x : Int) (n : Nat) : Int := x / 2 ^ n

/-- The eleven coefficients as numbers (R25): AC4, AC5, AC6 unsigned, the others signed. MB is not read. -/
structure IntCal where
  ac1 : Int
  ac2 : Int
  ac3 : Int
  ac4 : Int
  ac5 : Int
  ac6 : Int
  b1  : Int
  b2  : Int
  mc  : Int
  md  : Int

/-- The typed reading of the coefficient file (R25). -/
def IntCal.of (c : Cal) : IntCal where
  ac1 := c.ac1.toInt
  ac2 := c.ac2.toInt
  ac3 := c.ac3.toInt
  ac4 := c.ac4.toNat
  ac5 := c.ac5.toNat
  ac6 := c.ac6.toNat
  b1  := c.b1.toInt
  b2  := c.b2.toInt
  mc  := c.mc.toInt
  md  := c.md.toInt

/-- T1 (R180). -/
def intX1 (k : IntCal) (ut : Int) : Int := floorShift (wrapS ((ut - k.ac6) * k.ac5)) 15

/-- T2 and T3 (R181, R182): `b5`, for a divisor `x1 + MD` other than 0. -/
def intB5 (k : IntCal) (ut : Int) : Int :=
  let x1 := intX1 k ut
  x1 + Int.tdiv (k.mc * 2 ^ 11) (x1 + k.md)

/-- T4 (R183). -/
def intT (b5 : Int) : Int := floorShift (b5 + 8) 4

/-- `(b6 * b6) >> 12`, the common operand of P2 and P7 (R185, R190). -/
def intSquare (b6 : Int) : Int := floorShift (wrapS (b6 * b6)) 12

/-- P2 to P5 (R185 to R188): `b3`. -/
def intB3 (k : IntCal) (oss : Nat) (b6 : Int) : Int :=
  let x1 := floorShift (wrapS (k.b2 * intSquare b6)) 11
  let x2 := floorShift (wrapS (k.ac2 * b6)) 11
  Int.tdiv ((k.ac1 * 4 + (x1 + x2)) * 2 ^ oss + 2) 4

/-- P6 to P9 (R189 to R192): `b4`. -/
def intB4 (k : IntCal) (b6 : Int) : Int :=
  let x1 := floorShift (wrapS (k.ac3 * b6)) 13
  let x2 := floorShift (wrapS (k.b1 * intSquare b6)) 16
  let x3 := floorShift (x1 + x2 + 2) 2
  floorShift (wrapU (k.ac4 * wrapU (x3 + 32768))) 15

/-- P10 (R193). -/
def intB7 (oss : Nat) (up b3 : Int) : Int := wrapU (wrapU (up - b3) * (50000 / 2 ^ oss))

/-- P11 (R194) with the `S32` reading of R195. -/
def intP11 (b7 b4 : Int) : Int :=
  wrapS (if b7 < 2 ^ 31 then b7 * 2 / b4 else b7 / b4 * 2)

/-- P12 to P15 (R195 to R198). -/
def intPressure (p : Int) : Int :=
  let x1 := wrapS (floorShift p 8 * floorShift p 8)
  let x1 := floorShift (wrapS (x1 * 3038)) 16
  let x2 := floorShift (wrapS (-7357 * p)) 16
  wrapS (p + floorShift (x1 + x2 + 3791) 4)

end Sys2Proof.Safety
end

