-- ==== Sys2Proof/Certificates/Slice0/Obligations.lean ====
section
/-! DEFINITION. The statements for the provers. A result statement gives the whole next state by an equation, so it is also
the instruction's frame: every field the equation does not name is as before. -/

open Sys2Proof Sys2Proof.Machine Sys2Proof.Safety

/-! ### Encoding -/

/-- 30_encoding.md R79 to R88: the decoder reads every well-formed instruction's image as that instruction. -/
def Obligations.DecodeOfEncodeIsTheInstruction : Prop :=
  ∀ i : Instr, i.wellFormed = true → decode (encode i) = .ok i

/-- R82, R89: an image that decodes is the image of a well-formed instruction, so no two images mean the same and
nothing ill-formed is ever decoded. -/
def Obligations.EncodeOfDecodeIsTheImage : Prop :=
  ∀ (c : Image) (i : Instr), decode c = .ok i → encode i = c ∧ i.wellFormed = true

/-- R80, the whole table: match, mask and mnemonic, and "Every other word is illegal". -/
def Obligations.OpcodeTableDecidesEveryWord : Prop :=
  ∀ w : U32,
    (w &&& 0xFF0000FF = 0x00000001 → decodeHost w = .init (w.extractLsb' 8 8) (w.extractLsb' 16 8)) ∧
    (w &&& 0xFFFFFFFF = 0x00000002 → decodeHost w = .measure) ∧
    (w &&& 0xFFFFFFFF = 0x00000003 → decodeHost w = .getTemp) ∧
    (w &&& 0xFFFFFFFF = 0x00000004 → decodeHost w = .getPress) ∧
    (w &&& 0xFFFFFFFF = 0x00000005 → decodeHost w = .getCal) ∧
    (w &&& 0xFFFFFFFF = 0x00000006 → decodeHost w = .getStatus) ∧
    (w &&& 0xFF0000FF ≠ 0x00000001 → w &&& 0xFFFFFFFF ≠ 0x00000002 → w &&& 0xFFFFFFFF ≠ 0x00000003 →
      w &&& 0xFFFFFFFF ≠ 0x00000004 → w &&& 0xFFFFFFFF ≠ 0x00000005 → w &&& 0xFFFFFFFF ≠ 0x00000006 →
      decodeHost w = .illegal w)

/-- Words and images written out from R72 to R75 and R79 to R81, for each family of the opcode table. That a delay is read
from its step code (R86) and its mode, and COMP from R21's state code 1001, is the model's choice of an encoding for
rows that have no image (R88; notes/assumptions/18.md). -/
def Obligations.WrittenOutWordsDecode : Prop :=
  decodeHost 0b00000000000000000111011100000001 = .init 0x77 0 ∧
  decodeHost 0b00000000111111110000000000000001 = .init 0x00 255 ∧
  decodeHost 0b00000001000000000111011100000001 = .illegal 0x01007701 ∧
  decodeHost 0b00000000000000000000000000000010 = .measure ∧
  decodeHost 0b00000000000000000000000100000010 = .illegal 0x00000102 ∧
  decodeHost 0b00000000000000000000000000000011 = .getTemp ∧
  decodeHost 0b00000000000000000000000000000100 = .getPress ∧
  decodeHost 0b00000000000000000000000000000101 = .getCal ∧
  decodeHost 0b00000000000000000000000000000110 = .getStatus ∧
  decodeHost 0b00000000000000000000000000000111 = .illegal 0x00000007 ∧
  decode (.busRead 0b10101010 22) = .ok .rdCal ∧
  decode (.busWrite 0b11110100 0b00101110) = .ok .wrTcmd ∧
  decode (.busRead 0b11110110 2) = .ok .rdT ∧
  decode (.busWrite 0b11110100 0b10110100) = .ok (.wrPcmd 2) ∧
  decode (.busRead 0b11110110 3) = .ok .rdP ∧
  decode (.delay 3 1) = .ok (.dlyT 1) ∧
  decode (.delay 6 1) = .ok (.dlyP 1) ∧
  decode (.internal 0b1001) = .ok .comp

/-- R90: what the assembler makes of a line is that line's command, and INIT's word is the formula's number. -/
def Obligations.AssembledLinesDecodeToTheirCommands : Prop :=
  (∀ a m : U8, decodeHost (AsmLine.assemble (.init a m)) = .init a m ∧
    (AsmLine.assemble (.init a m)).toNat = m.toNat * 2 ^ 16 + a.toNat * 2 ^ 8 + 1) ∧
  decodeHost (AsmLine.assemble .measure) = .measure ∧
  decodeHost (AsmLine.assemble .getTemp) = .getTemp ∧
  decodeHost (AsmLine.assemble .getPress) = .getPress ∧
  decodeHost (AsmLine.assemble .getCal) = .getCal ∧
  decodeHost (AsmLine.assemble .getStatus) = .getStatus ∧
  (∀ w : U32, AsmLine.assemble (.word w) = w)

/-- R73: the pressure command byte, its layout and its four values, and WR_PCMD's image and transaction. -/
def Obligations.PressureCommandByte : Prop :=
  (∀ oss : U2,
    (modeTable oss).pcmd = 0x34 ||| (oss.setWidth 8 <<< 6) ∧
    (modeTable oss).pcmd.extractLsb' 6 2 = oss ∧
    (modeTable oss).pcmd.extractLsb' 0 6 = 0b110100 ∧
    encode (.wrPcmd oss) = .busWrite 0b11110100 (oss ++ (0b110100 : BitVec 6)) ∧
    oss ++ (0b110100 : BitVec 6) = (modeTable oss).pcmd) ∧
  (modeTable 0).pcmd = 0x34 ∧ (modeTable 1).pcmd = 0x74 ∧ (modeTable 2).pcmd = 0xB4 ∧ (modeTable 3).pcmd = 0xF4 ∧
  ∀ s : State, s.wrPcmdRequest = .bus (.write s.devAddr 0xF4 [0x34 ||| (s.oss.setWidth 8 <<< 6)])

/-- R76, R292: the delays, the shift and the factor of each mode, and how many bits `UP` has. -/
def Obligations.ModeTableColumns : Prop :=
  ((modeTable 0).tConvT = 5000000 ∧ (modeTable 1).tConvT = 8000000 ∧ (modeTable 2).tConvT = 14000000 ∧
    (modeTable 3).tConvT = 26000000) ∧
  ∀ oss : U2,
    (modeTable oss).tConvP = (modeTable oss).tConvT ∧
    (modeTable oss).upShift = 8 - oss.toNat ∧
    (modeTable oss).kB7 = (50000 : U32) >>> oss.toNat ∧
    ∀ p : RawP, (rawPressCount p oss).toNat < 2 ^ (16 + oss.toNat)

/-- R84 with the numbers of R85 to R87: R100's `status_word` is the sum of its fields at their places, and each field
reads back. -/
def Obligations.StatusWordFields : Prop :=
  ∀ (s : State) (code : OutcomeCode) (stp : StepCode),
    s.statusWord code stp none = s.wordOf code.code.toNat stp.code.toNat 0 ∧
    (∀ e : BusError, s.statusWord code stp (some (busErrorClass e)) =
      s.wordOf code.code.toNat stp.code.toNat (bclsOf e)) ∧
    ∀ cls : Option BusClass,
      statusCode (s.statusWord code stp cls) = code.code ∧
      statusStep (s.statusWord code stp cls) = stp.code ∧
      statusBcls (s.statusWord code stp cls) = bclsField cls ∧
      statusCal (s.statusWord code stp cls) = s.calValid ∧
      statusRdv (s.statusWord code stp cls) = s.rdValid ∧
      statusFlt (s.statusWord code stp cls) = s.faultDz ∧
      statusReserved (s.statusWord code stp cls) = 0

/-! ### Reset -/

/-- R40: the values the spec gives a block after reset. Its "unspecified" fields are not mentioned: their values are the
model's choice (notes/assumptions/2.md). -/
def Obligations.ResetStateHasTheSpecValues : Prop :=
  State.reset.fsm = .uncal ∧ State.reset.calValid = false ∧ State.reset.rdValid = false ∧
  State.reset.faultDz = false ∧ State.reset.lastStatus = 0x000000FF ∧ State.reset.lastBusError = none ∧
  State.reset.pend = none ∧ State.reset.trace = []

/-- R280, R281, R249: a reset is taken in every state, whatever is pending or outstanding. It makes the block's fields
R280's, issues nothing and answers nothing. The clause about `inputs` is the model's own (notes/assumptions/9.md). -/
def Obligations.ResetIsTakenInEveryState : Prop :=
  ∀ (s : State) (rest : List Input), s.inputs = .reset :: rest →
    ∃ t, step s = .next t ∧
      t.fsm = .uncal ∧ t.calValid = false ∧ t.rdValid = false ∧ t.faultDz = false ∧ t.lastStatus = 0x000000FF ∧
      t.lastBusError = none ∧ t.pend = none ∧ t.trace = [] ∧ t.responses = s.responses ∧ t.inputs = rest

/-- R281, R249, D43: an answer that finds no request pending in an idle block is discarded, and so is a late answer of any
kind and length to an abandoned request, also while a new request is pending; it changes nothing and appends nothing to
the trace. That an input says whether it is late is notes/assumptions/14.md; in `S_COMP` COMP runs before it is discarded
(notes/assumptions/1.md). -/
def Obligations.LateAnswerIsDiscarded : Prop :=
  (∀ (s : State) (a : Input) (rest : List Input), s.fsm.isStable = true → s.inputs = a :: rest →
    (a = .writeOk ∨ (∃ bytes, a = .readOk bytes) ∨ (∃ e, a = .busErr e) ∨ a = .delayDone) →
    step s = .next { s with inputs := rest }) ∧
  (∀ (s : State) (a : Answer) (rest : List Input), s.PendMatchesFsm → s.fsm ≠ .sComp → s.inputs = .late a :: rest →
    step s = .next { s with inputs := rest })

/-! ### Host commands -/

/-- R101, R81, R248: INIT checks the state, then the mode, and only then stages its operands and moves to `S_RD_CAL`. -/
def Obligations.InitChecksThenStages : Prop :=
  ∀ (s : State) (a m : U8), s.fsm.isStable = true →
    (s.calValid = true →
      exec (.init a m) s = .next { s with
        lastStatus := s.wordOf 0x05 0 0
        responses := s.responses ++ [⟨s.wordOf 0x05 0 0, .none, none⟩] }) ∧
    (s.calValid = false → 3 < m.toNat →
      exec (.init a m) s = .next { s with
        lastStatus := s.wordOf 0x03 0 0
        responses := s.responses ++ [⟨s.wordOf 0x03 0 0, .none, none⟩] }) ∧
    (s.calValid = false → m.toNat ≤ 3 →
      exec (.init a m) s = .next { s with
        stgAddr := a
        stgMode := BitVec.ofNat 2 m.toNat
        fsm := .sRdCal })

/-- R105, R244: MEASURE on a calibrated handle moves to `S_WR_TCMD`; on another it is rejected with no other write. -/
def Obligations.MeasureStartsOrIsRejected : Prop :=
  ∀ s : State, s.fsm.isStable = true →
    (s.calValid = true → exec .measure s = .next { s with fsm := .sWrTcmd }) ∧
    (s.calValid = false →
      exec .measure s = .next { s with
        lastStatus := s.wordOf 0x04 0 0
        responses := s.responses ++ [⟨s.wordOf 0x04 0 0, .none, none⟩] })

/-- R110: GET_TEMP returns the last derived temperature, or NO_READING before the first. -/
def Obligations.GetTempReturnsTheReading : Prop :=
  decodeHost 0x00000003 = .getTemp ∧
  ∀ s : State, s.fsm.isStable = true →
    (s.rdValid = true →
      exec .getTemp s = .next { s with
        lastStatus := s.wordOf 0x00 0 0
        responses := s.responses ++ [⟨s.wordOf 0x00 0 0, .temp s.tempTenths, none⟩] }) ∧
    (s.rdValid = false →
      exec .getTemp s = .next { s with
        lastStatus := s.wordOf 0x06 0 0
        responses := s.responses ++ [⟨s.wordOf 0x06 0 0, .none, none⟩] })

/-- R114: GET_PRESS returns the last derived pressure, or NO_READING before the first. -/
def Obligations.GetPressReturnsTheReading : Prop :=
  decodeHost 0x00000004 = .getPress ∧
  ∀ s : State, s.fsm.isStable = true →
    (s.rdValid = true →
      exec .getPress s = .next { s with
        lastStatus := s.wordOf 0x00 0 0
        responses := s.responses ++ [⟨s.wordOf 0x00 0 0, .press s.pressure, none⟩] }) ∧
    (s.rdValid = false →
      exec .getPress s = .next { s with
        lastStatus := s.wordOf 0x06 0 0
        responses := s.responses ++ [⟨s.wordOf 0x06 0 0, .none, none⟩] })

/-- R118: GET_CAL returns AC1 to MD in index order, or NOT_CALIBRATED. -/
def Obligations.GetCalReturnsTheCoefficients : Prop :=
  decodeHost 0x00000005 = .getCal ∧
  ∀ s : State, s.fsm.isStable = true →
    (s.calValid = true →
      exec .getCal s = .next { s with
        lastStatus := s.wordOf 0x00 0 0
        responses := s.responses ++ [⟨s.wordOf 0x00 0 0,
          .cal [s.cal.ac1, s.cal.ac2, s.cal.ac3, s.cal.ac4, s.cal.ac5, s.cal.ac6, s.cal.b1, s.cal.b2, s.cal.mb,
            s.cal.mc, s.cal.md], none⟩] }) ∧
    (s.calValid = false →
      exec .getCal s = .next { s with
        lastStatus := s.wordOf 0x04 0 0
        responses := s.responses ++ [⟨s.wordOf 0x04 0 0, .none, none⟩] })

/-- R122: GET_STATUS returns `last_status` and writes nothing. -/
def Obligations.GetStatusReturnsLastStatus : Prop :=
  decodeHost 0x00000006 = .getStatus ∧
  ∀ s : State, s.fsm.isStable = true →
    exec .getStatus s = .next { s with responses := s.responses ++ [⟨s.lastStatus, .none, none⟩] }

/-- R126: a word that no command matches ends with ILLEGAL_COMMAND and changes only `last_status`. -/
def Obligations.IllegalWordChangesOnlyLastStatus : Prop :=
  ∀ (s : State) (w : U32), s.fsm.isStable = true → isCommandWord w = false →
    decodeHost w = .illegal w ∧
    exec (decodeHost w) s = .next { s with
      lastStatus := s.wordOf 0x08 0 0
      responses := s.responses ++ [⟨s.wordOf 0x08 0 0, .none, none⟩] }

/-- R257 (1), R100: no host command has a step while another is outstanding. That having no step is a refusal of this name
is notes/assumptions/11.md. -/
def Obligations.CommandWhileOutstandingHasNoStep : Prop :=
  ∀ (s : State) (w : U32), s.fsm.isStable = false → exec (decodeHost w) s = .refused .commandOutstanding

/-! ### Micro-operations -/

/-- R141, R142, R143: RD_CAL issues one read of 22 bytes at `0xAA`; on `Ok` the handle is committed in one step, on
`Err(e)` nothing of the handle is written. -/
def Obligations.RdCalIssuesThenCommitsOrAborts : Prop :=
  ∀ s : State, s.fsm = .sRdCal →
    (s.pend = none →
      exec .rdCal s = .next { s with
        pend := some (.bus (.read s.stgAddr 0xAA 22))
        trace := s.trace ++ [.r s.stgAddr 0xAA 22] }) ∧
    (∀ (block : Vector U8 22) (rest : List Input), s.pend = some (.bus (.read s.stgAddr 0xAA 22)) →
      s.inputs = .readOk block.toList :: rest →
      exec .rdCal s = .next { s with
        stgCal := block
        devAddr := s.stgAddr
        oss := s.stgMode
        cal := ⟨block[0] ++ block[1], block[2] ++ block[3], block[4] ++ block[5], block[6] ++ block[7],
          block[8] ++ block[9], block[10] ++ block[11], block[12] ++ block[13], block[14] ++ block[15],
          block[16] ++ block[17], block[18] ++ block[19], block[20] ++ block[21]⟩
        calValid := true
        lastBusError := none
        fsm := .ready
        pend := none
        trace := s.trace ++ [.rOk block.toList]
        inputs := rest
        lastStatus := State.wordOf { s with calValid := true } 0x00 0 0
        responses := s.responses ++ [⟨State.wordOf { s with calValid := true } 0x00 0 0, .none, none⟩] }) ∧
    (∀ (e : BusError) (rest : List Input), s.pend = some (.bus (.read s.stgAddr 0xAA 22)) →
      s.inputs = .busErr e :: rest →
      exec .rdCal s = .next { s with
        lastBusError := some e
        fsm := .uncal
        pend := none
        trace := s.trace ++ [.rErr e]
        inputs := rest
        lastStatus := s.wordOf 0x01 1 (bclsOf e)
        responses := s.responses ++ [⟨s.wordOf 0x01 1 (bclsOf e), .none, some e⟩] })

/-- R144: WR_TCMD writes `0x2E` to the control register, and its `Ok` moves to `S_DLY_T`. -/
def Obligations.WrTcmdIssuesThenMoves : Prop :=
  ∀ s : State, s.fsm = .sWrTcmd →
    (s.pend = none →
      exec .wrTcmd s = .next { s with
        pend := some (.bus (.write s.devAddr 0xF4 [0x2E]))
        trace := s.trace ++ [.w s.devAddr 0xF4 [0x2E]] }) ∧
    (∀ rest : List Input, s.pend = some (.bus (.write s.devAddr 0xF4 [0x2E])) → s.inputs = .writeOk :: rest →
      exec .wrTcmd s = .next { s with
        fsm := .sDlyT
        pend := none
        trace := s.trace ++ [.wOk]
        inputs := rest })

/-- R146, R150, R147: the two delays request the mode's time, the same for both phases, and their `Done` moves to the
read. -/
def Obligations.DelaysIssueThenMove : Prop :=
  ∀ (s : State) (ns : Nat),
    (s.oss = 0 ∧ ns = 5000000 ∨ s.oss = 1 ∧ ns = 8000000 ∨ s.oss = 2 ∧ ns = 14000000 ∨ s.oss = 3 ∧ ns = 26000000) →
    (s.fsm = .sDlyT → s.pend = none →
      exec (.dlyT s.oss) s = .next { s with pend := some (.delay ns), trace := s.trace ++ [.d ns] }) ∧
    (∀ rest : List Input, s.fsm = .sDlyT → s.pend = some (.delay ns) → s.inputs = .delayDone :: rest →
      exec (.dlyT s.oss) s = .next { s with
        fsm := .sRdT
        pend := none
        trace := s.trace ++ [.dDone]
        inputs := rest }) ∧
    (s.fsm = .sDlyP → s.pend = none →
      exec (.dlyP s.oss) s = .next { s with pend := some (.delay ns), trace := s.trace ++ [.d ns] }) ∧
    (∀ rest : List Input, s.fsm = .sDlyP → s.pend = some (.delay ns) → s.inputs = .delayDone :: rest →
      exec (.dlyP s.oss) s = .next { s with
        fsm := .sRdP
        pend := none
        trace := s.trace ++ [.dDone]
        inputs := rest })

/-- R148: RD_T reads two bytes at `0xF6` and stages them; nothing host-visible is written. -/
def Obligations.RdTIssuesThenStages : Prop :=
  ∀ s : State, s.fsm = .sRdT →
    (s.pend = none →
      exec .rdT s = .next { s with
        pend := some (.bus (.read s.devAddr 0xF6 2))
        trace := s.trace ++ [.r s.devAddr 0xF6 2] }) ∧
    (∀ (b0 b1 : U8) (rest : List Input), s.pend = some (.bus (.read s.devAddr 0xF6 2)) →
      s.inputs = .readOk [b0, b1] :: rest →
      exec .rdT s = .next { s with
        stgT := ⟨b0, b1⟩
        fsm := .sWrPcmd
        pend := none
        trace := s.trace ++ [.rOk [b0, b1]]
        inputs := rest })

/-- R149: WR_PCMD writes `0x34 | (oss << 6)` to the control register, and its `Ok` moves to `S_DLY_P`. -/
def Obligations.WrPcmdIssuesThenMoves : Prop :=
  ∀ (s : State) (cmd : U8), s.fsm = .sWrPcmd → cmd = 0x34 ||| (s.oss.setWidth 8 <<< 6) →
    (s.pend = none →
      exec (.wrPcmd s.oss) s = .next { s with
        pend := some (.bus (.write s.devAddr 0xF4 [cmd]))
        trace := s.trace ++ [.w s.devAddr 0xF4 [cmd]] }) ∧
    (∀ rest : List Input, s.pend = some (.bus (.write s.devAddr 0xF4 [cmd])) → s.inputs = .writeOk :: rest →
      exec (.wrPcmd s.oss) s = .next { s with
        fsm := .sDlyP
        pend := none
        trace := s.trace ++ [.wOk]
        inputs := rest })

/-- R151: RD_P reads three bytes at `0xF6` in one transaction and stages them all. -/
def Obligations.RdPIssuesThenStages : Prop :=
  ∀ s : State, s.fsm = .sRdP →
    (s.pend = none →
      exec .rdP s = .next { s with
        pend := some (.bus (.read s.devAddr 0xF6 3))
        trace := s.trace ++ [.r s.devAddr 0xF6 3] }) ∧
    (∀ (b0 b1 b2 : U8) (rest : List Input), s.pend = some (.bus (.read s.devAddr 0xF6 3)) →
      s.inputs = .readOk [b0, b1, b2] :: rest →
      exec .rdP s = .next { s with
        stgP := ⟨b0, b1, b2⟩
        fsm := .sComp
        pend := none
        trace := s.trace ++ [.rOk [b0, b1, b2]]
        inputs := rest })

/-- R153, R145, R243: a failed transaction of the measure phase aborts the whole MEASURE with its own step code, and
every handle field keeps its value. `i`, `n` and `ev` run over WR_TCMD, RD_T, WR_PCMD and RD_P. -/
def Obligations.MeasurePhaseFailureAborts : Prop :=
  ∀ (s : State) (e : BusError) (rest : List Input) (i : Instr) (n : Nat) (ev : Event),
    (s.fsm = .sWrTcmd ∧ i = .wrTcmd ∧ n = 2 ∧ ev = .wErr e ∨
     s.fsm = .sRdT ∧ i = .rdT ∧ n = 4 ∧ ev = .rErr e ∨
     s.fsm = .sWrPcmd ∧ i = .wrPcmd s.oss ∧ n = 5 ∧ ev = .wErr e ∨
     s.fsm = .sRdP ∧ i = .rdP ∧ n = 7 ∧ ev = .rErr e) →
    s.pend = s.entryRequest → s.inputs = .busErr e :: rest →
    exec i s = .next { s with
      lastBusError := some e
      fsm := .ready
      pend := none
      trace := s.trace ++ [ev]
      inputs := rest
      lastStatus := s.wordOf 0x02 n (bclsOf e)
      responses := s.responses ++ [⟨s.wordOf 0x02 n (bclsOf e), .none, some e⟩] }

/-- R200, R152: where no divisor is 0, COMP computes and commits every reading field together in one step. What `dp`
itself holds then is the model's reading (notes/assumptions/8.md). -/
def Obligations.CompCommitsTheReading : Prop :=
  ∀ (s : State) (dp : Datapath), s.fsm = .sComp →
    compensate s.cal s.oss (rawTempCount s.stgT) (rawPressCount s.stgP s.oss) = .done dp →
    exec .comp s = .next { s with
      dp := dp
      rawT := s.stgT
      rawP := s.stgP
      tempTenths := dp.t
      pressure := dp.p
      rdValid := true
      lastBusError := none
      fsm := .ready
      lastStatus := State.wordOf { s with rdValid := true } 0x00 0 0
      responses := s.responses ++ [⟨State.wordOf { s with rdValid := true } 0x00 0 0, .none, none⟩] }

/-- R199, R246: a zero divisor sets `fault_dz`, returns COMP_DIV_ZERO with step 8 (T2) or 9 (P11), and writes nothing
else. That `dp` keeps its value is the model's reading (notes/assumptions/8.md). -/
def Obligations.CompFaultWritesNothingElse : Prop :=
  ∀ (s : State) (d : StepCode) (n : Nat), s.fsm = .sComp →
    compensate s.cal s.oss (rawTempCount s.stgT) (rawPressCount s.stgP s.oss) = .divByZero d →
    (d = .compT ∧ n = 8 ∨ d = .compP ∧ n = 9) →
    exec .comp s = .next { s with
      faultDz := true
      lastBusError := none
      fsm := .ready
      lastStatus := State.wordOf { s with faultDz := true } 0x07 n 0
      responses := s.responses ++ [⟨State.wordOf { s with faultDz := true } 0x07 n 0, .none, none⟩] }

/-- R159, R264: a pending request that nothing answers holds the block for ever, in the state it is in. That no input
left means that nothing ever arrives is the model's choice (notes/assumptions/1.md). -/
def Obligations.UnansweredRequestHoldsForever : Prop :=
  ∀ (s : State) (k : Nat), s.PendMatchesFsm → s.hung → core.run k s = .next s

/-- R155: an `Ok` of a read with another number of bytes than was asked is rejected. That the rejection is a refusal of
this name is notes/assumptions/10.md. -/
def Obligations.WrongLengthAnswerIsRejected : Prop :=
  ∀ (s : State) (addr reg : U8) (n : Nat) (bytes : List U8) (rest : List Input), s.PendMatchesFsm →
    s.pend = some (.bus (.read addr reg n)) → s.inputs = .readOk bytes :: rest → bytes.length ≠ n →
    step s = .refused .answerLength

/-- From R140, R86 and R88, which say what the FSM issues in each state: a micro-operation has no step in a state whose FSM
does not issue it, nor with a mode operand other than the committed mode. The spec does not say what such a call does,
and the refusal is the model's (DEDUCED, notes/assumptions/12.md). -/
def Obligations.MicroOpHasNoStepElsewhere : Prop :=
  ∀ (s : State) (i : Instr), s.fsm.microOp s.oss ≠ some i →
    (i = .rdCal ∨ i = .wrTcmd ∨ (∃ mm, i = .dlyT mm) ∨ i = .rdT ∨ (∃ mm, i = .wrPcmd mm) ∨ (∃ mm, i = .dlyP mm) ∨
      i = .rdP ∨ i = .comp) →
    exec i s = .refused .microOpOutOfState

/-! ### One step -/

/-- R100, R82: the next command word is used up, decoded, and its meaning run; then, in the same step, the state it leaves
the FSM in is entered, which is the model's reading of R140's "on entry" (DEDUCED, notes/assumptions/4.md). A refusal of the meaning (R257, where another command is outstanding) is the step's refusal. `S_COMP` is
`StepRunsTheMicroOp`'s: it waits for nothing from outside. -/
def Obligations.StepRunsTheDecodedCommand : Prop :=
  ∀ (s : State) (w : U32) (rest : List Input), s.fsm ≠ .sComp → s.inputs = .command w :: rest →
    (∀ t, exec (decodeHost w) { s with inputs := rest } = .next t → step s = .next t.enter) ∧
    (∀ r, exec (decodeHost w) { s with inputs := rest } = .refused r → step s = .refused r)

/-- R5, R86: in a transient state the FSM's micro-operation is run, unless a reset or (outside `S_COMP`) a host command
comes first. That `S_COMP` computes although a command is next is the model's (R257 gives that host action no step;
notes/assumptions/1.md, notes/assumptions/11.md), and so is entering the next state in the same step (DEDUCED from R140,
notes/assumptions/4.md). -/
def Obligations.StepRunsTheMicroOp : Prop :=
  ∀ (s : State) (i : Instr), s.fsm.microOp s.oss = some i → ¬ s.resetNext →
    (s.fsm = .sComp ∨ ∀ w, s.inputs.head? ≠ some (.command w)) →
    (∀ t, exec i s = .next t → step s = .next t.enter) ∧
    (∀ r, exec i s = .refused r → step s = .refused r)

/-- R140's table, column "request issued on entry", with R38's event: what entering each FSM state adds. -/
def Obligations.EnteringAStateIssuesItsRequest : Prop :=
  ∀ s : State,
    (s.pend ≠ none → s.enter = s) ∧
    (s.fsm = .uncal ∨ s.fsm = .ready ∨ s.fsm = .sComp → s.enter = s) ∧
    (s.pend = none →
      (s.fsm = .sRdCal → s.enter = { s with
        pend := some (.bus (.read s.stgAddr 0xAA 22)), trace := s.trace ++ [.r s.stgAddr 0xAA 22] }) ∧
      (s.fsm = .sWrTcmd → s.enter = { s with
        pend := some (.bus (.write s.devAddr 0xF4 [0x2E])), trace := s.trace ++ [.w s.devAddr 0xF4 [0x2E]] }) ∧
      (s.fsm = .sDlyT → s.enter = { s with
        pend := some (.delay (modeTable s.oss).tConvT), trace := s.trace ++ [.d (modeTable s.oss).tConvT] }) ∧
      (s.fsm = .sRdT → s.enter = { s with
        pend := some (.bus (.read s.devAddr 0xF6 2)), trace := s.trace ++ [.r s.devAddr 0xF6 2] }) ∧
      (s.fsm = .sWrPcmd → s.enter = { s with
        pend := some (.bus (.write s.devAddr 0xF4 [0x34 ||| (s.oss.setWidth 8 <<< 6)])),
        trace := s.trace ++ [.w s.devAddr 0xF4 [0x34 ||| (s.oss.setWidth 8 <<< 6)]] }) ∧
      (s.fsm = .sDlyP → s.enter = { s with
        pend := some (.delay (modeTable s.oss).tConvP), trace := s.trace ++ [.d (modeTable s.oss).tConvP] }) ∧
      (s.fsm = .sRdP → s.enter = { s with
        pend := some (.bus (.read s.devAddr 0xF6 3)), trace := s.trace ++ [.r s.devAddr 0xF6 3] }))

/-- The model's own: a word of the opcode table that decodes is what the very next step runs
(notes/assumptions/6.md). -/
def Obligations.PlacedWordIsRunNext : Prop :=
  ∀ (s : State) (nbits w : Nat) (i : Instr), decodeTableWord nbits w = some i →
    ∃ t, (s.withFetchWord nbits w).fetch = .run i t ∧
      step (s.withFetchWord nbits w) = enterOutcome (exec i t)

/-! ### Invariants and rules about the whole machine -/

/-- R41, R35, R122, R84: the invariants hold after reset. -/
def Obligations.ResetStateMeetsTheInvariants : Prop := State.reset.Inv

/-- R41: every step preserves the invariants of one state: `cal_valid` follows `fsm` (41.1), a reading needs a
calibration (41.2), `pend` is the FSM state's request (41.4, R35), `last_status` shows the current flags (R122) and
holds no reserved code (R84 to R87). -/
def Obligations.EveryStepKeepsTheInvariants : Prop :=
  ∀ s t : State, s.Inv → step s = .next t → t.Inv

/-- R41.3, R24, R285, R64: while the handle is calibrated, nothing but a reset changes its address, mode or
coefficients. -/
def Obligations.CalibratedHandleIsImmutable : Prop :=
  ∀ s t : State, s.Inv → s.calValid = true → ¬ s.resetNext → step s = .next t →
    t.devAddr = s.devAddr ∧ t.oss = s.oss ∧ t.cal = s.cal ∧ t.calValid = true

/-- R41.5, R26 to R30: a step other than a reset leaves all reading fields as they are, or is the MEASURE commit and
writes them all. -/
def Obligations.ReadingFieldsChangeOnlyTogether : Prop :=
  ∀ s t : State, ¬ s.resetNext → step s = .next t →
    t.reading = s.reading ∨
    ∃ dp, s.fsm = .sComp ∧ s.compensation = .done dp ∧ t.fsm = .ready ∧ t.reading = ⟨s.stgT, s.stgP, dp.t, dp.p, true⟩

/-- R32, R36, R253: without a reset `fault_dz` never goes back to 0, and only a division by zero in COMP sets it. -/
def Obligations.FaultBitIsSticky : Prop :=
  ∀ s t : State, ¬ s.resetNext → step s = .next t →
    (s.faultDz = true → t.faultDz = true) ∧
    (s.faultDz = false → t.faultDz = true → s.fsm = .sComp ∧ ∃ d, s.compensation = .divByZero d)

/-- R140: "There are no other edges, except reset". -/
def Obligations.FsmMovesOnlyAlongItsEdges : Prop :=
  ∀ s t : State, s.CalMatchesFsm → ¬ s.resetNext → step s = .next t → t.fsm ∈ s.fsm.edges

/-- R38, R89.4, R57, R60: without a reset the trace only grows, by at most one of R38's answer events and one issue, and
what is issued is one of the five transactions of R74 and R75 (RD_CAL's at `stg_addr`, R141) or the delay of the
committed mode (R140, R146, R150). That an answer and the next issue fall into one step is notes/assumptions/4.md. -/
def Obligations.TraceGrowsOnlyByTheBlocksRequests : Prop :=
  ∀ s t : State, s.Inv → ¬ s.resetNext → step s = .next t →
    ∃ answer issue : List Event, t.trace = s.trace ++ answer ++ issue ∧ answer.length ≤ 1 ∧ issue.length ≤ 1 ∧
      (∀ ev ∈ answer, ev = .wOk ∨ (∃ e, ev = .wErr e) ∨ (∃ b, ev = .rOk b) ∨ (∃ e, ev = .rErr e) ∨ ev = .dDone) ∧
      (∀ ev ∈ issue,
        ev = .r t.stgAddr 0xAA 22 ∨ ev = .w t.devAddr 0xF4 [0x2E] ∨ ev = .r t.devAddr 0xF6 2 ∨
        ev = .w t.devAddr 0xF4 [0x34 ||| (t.oss.setWidth 8 <<< 6)] ∨ ev = .r t.devAddr 0xF6 3 ∨
        ev = .d (modeTable t.oss).tConvT)

/-- R100, R11: a command ends with exactly one response, and only the step that ends it responds: the step that takes a
command or runs a micro-operation responds exactly when it leaves the FSM stable, with one response. -/
def Obligations.EachCommandEndsWithOneResponse : Prop :=
  ∀ s t : State, s.Inv → ¬ s.resetNext → step s = .next t →
    if t.fsm.isStable = true ∧ (s.fsm.isStable = false ∨ ∃ w, s.inputs.head? = some (.command w)) then
      ∃ r, t.responses = s.responses ++ [r]
    else t.responses = s.responses

/-- R63: what the host can see changes only in a step that returns a response, or in a reset. -/
def Obligations.NothingVisibleChangesBeforeTheResponse : Prop :=
  ∀ s t : State, ¬ s.resetNext → step s = .next t → t.responses = s.responses → t.hostView = s.hostView

/-- R251, R250: a step that returns a code other than OK leaves every host-visible field but `last_status` and
`fault_dz` as it was, and the rest of the handle too. -/
def Obligations.ErrorsArePrecise : Prop :=
  ∀ (s t : State) (r : Response), ¬ s.resetNext → step s = .next t → t.responses = s.responses ++ [r] →
    statusCode r.status ≠ 0x00 →
    t.cal = s.cal ∧ t.tempTenths = s.tempTenths ∧ t.pressure = s.pressure ∧ t.calValid = s.calValid ∧
    t.rdValid = s.rdValid ∧ t.rawT = s.rawT ∧ t.rawP = s.rawP ∧ t.devAddr = s.devAddr ∧ t.oss = s.oss

/-- R31, R100, R122: after every response `last_status` is the status word that was returned. -/
def Obligations.LastStatusIsTheLastResponse : Prop :=
  ∀ (s t : State) (r : Response), ¬ s.resetNext → step s = .next t → t.responses = s.responses ++ [r] →
    t.lastStatus = r.status

/-! ### Whole commands -/

/-- R101, R142, R158: a legal INIT on an uncalibrated block, answered with a calibration block, has R158's trace, leaves
the handle calibrated with INIT's operands and the block's coefficients, and returns OK. The number of steps is
notes/assumptions/4.md's. -/
def Obligations.InitRunCalibratesTheHandle : Prop :=
  ∀ (s : State) (a : U8) (m : U2) (c : Vector U8 22) (rest : List Input),
    s.fsm = .uncal → s.calValid = false → s.pend = none →
    s.inputs = .command (AsmLine.assemble (.init a (m.setWidth 8))) :: .readOk c.toList :: rest →
    ∃ t, core.run 2 s = .next t ∧
      t.trace = s.trace ++ [.r a 0xAA 22, .rOk c.toList] ∧
      t.fsm = .ready ∧ t.pend = none ∧ t.calValid = true ∧ t.devAddr = a ∧ t.oss = m ∧ t.cal = decodeCal c ∧
      t.reading = s.reading ∧ t.faultDz = s.faultDz ∧ t.inputs = rest ∧
      t.responses = s.responses ++ [⟨t.wordOf 0x00 0 0, .none, none⟩]

/-- R105, R152, R158: a MEASURE whose transactions all succeed and whose divisors are not 0 has R158's trace, commits the
compensated reading of its own bytes, and returns OK. The number of steps is notes/assumptions/4.md's; where `rest` begins
with a command, that COMP runs before it is notes/assumptions/1.md and notes/assumptions/11.md. -/
def Obligations.MeasureRunCommitsTheReading : Prop :=
  ∀ (s : State) (t0 t1 p0 p1 p2 : U8) (dp : Datapath) (rest : List Input),
    s.fsm = .ready → s.calValid = true → s.pend = none →
    s.inputs = .command 0x00000002 :: .writeOk :: .delayDone :: .readOk [t0, t1] :: .writeOk :: .delayDone ::
      .readOk [p0, p1, p2] :: rest →
    rest.head? ≠ some .reset →
    compensate s.cal s.oss (rawTempCount ⟨t0, t1⟩) (rawPressCount ⟨p0, p1, p2⟩ s.oss) = .done dp →
    ∃ t, core.run 8 s = .next t ∧
      t.trace = s.trace ++ (
        [.w s.devAddr 0xF4 [0x2E], .wOk,
         .d (modeTable s.oss).tConvT, .dDone,
         .r s.devAddr 0xF6 2, .rOk [t0, t1],
         .w s.devAddr 0xF4 [0x34 ||| (s.oss.setWidth 8 <<< 6)], .wOk,
         .d (modeTable s.oss).tConvP, .dDone,
         .r s.devAddr 0xF6 3, .rOk [p0, p1, p2]] : List Event) ∧
      t.reading = ⟨⟨t0, t1⟩, ⟨p0, p1, p2⟩, dp.t, dp.p, true⟩ ∧
      t.fsm = .ready ∧ t.pend = none ∧ t.calValid = true ∧ t.devAddr = s.devAddr ∧ t.oss = s.oss ∧ t.cal = s.cal ∧
      t.faultDz = s.faultDz ∧ t.lastBusError = none ∧ t.inputs = rest ∧
      t.responses = s.responses ++ [⟨t.wordOf 0x00 0 0, .none, none⟩]

/-- R105 corner case 1, R153, R158: a MEASURE whose pressure read fails has R158's trace up to the failing answer,
leaves every reading field as it was (the bytes of its own temperature read are discarded), and returns MEAS_BUS_ERROR
with step 7 and the error's class. The number of steps is notes/assumptions/4.md's. -/
def Obligations.FailedPressureReadKeepsTheReading : Prop :=
  ∀ (s : State) (t0 t1 : U8) (e : BusError) (rest : List Input),
    s.fsm = .ready → s.calValid = true → s.pend = none →
    s.inputs = .command 0x00000002 :: .writeOk :: .delayDone :: .readOk [t0, t1] :: .writeOk :: .delayDone ::
      .busErr e :: rest →
    ∃ t, core.run 7 s = .next t ∧
      t.trace = s.trace ++ (
        [.w s.devAddr 0xF4 [0x2E], .wOk,
         .d (modeTable s.oss).tConvT, .dDone,
         .r s.devAddr 0xF6 2, .rOk [t0, t1],
         .w s.devAddr 0xF4 [0x34 ||| (s.oss.setWidth 8 <<< 6)], .wOk,
         .d (modeTable s.oss).tConvP, .dDone,
         .r s.devAddr 0xF6 3, .rErr e] : List Event) ∧
      t.reading = s.reading ∧ t.fsm = .ready ∧ t.pend = none ∧ t.lastBusError = some e ∧ t.inputs = rest ∧
      t.responses = s.responses ++ [⟨s.wordOf 0x02 7 (bclsOf e), .none, some e⟩]

/-! ### Compensation -/

/-- R177, R178: the raw counts as numbers, with their ranges. -/
def Obligations.RawCountsAreUnsigned : Prop :=
  (∀ t : RawT, (rawTempCount t).toInt = t.msb.toNat * 256 + t.lsb.toNat ∧
    0 ≤ (rawTempCount t).toInt ∧ (rawTempCount t).toInt ≤ 65535) ∧
  (∀ (p : RawP) (oss : U2),
    (rawPressCount p oss).toNat =
      (p.msb.toNat * 65536 + p.lsb.toNat * 256 + p.xlsb.toNat) / 2 ^ (8 - oss.toNat) ∧
    (rawPressCount p oss).toNat ≤ 2 ^ (16 + oss.toNat) - 1)

/-- R200 with R170 to R198: on raw counts in range, the bit-vector pipeline is the formula over the integers, with a
32-bit wrap where R171 has one, a floor where R172 shifts and a truncation where R173 divides. It faults at T2 exactly
when `x1 + MD` is 0, and at P11 exactly when it does not fault at T2 and `b4` is 0 (R199). -/
def Obligations.PipelineIsTheIntegerFormula : Prop :=
  ∀ (c : Cal) (oss : U2) (ut : S32) (up : U32), 0 ≤ ut.toInt → ut.toInt ≤ 65535 →
    let k := IntCal.of c
    let x1 := intX1 k ut.toInt
    let b5 := intB5 k ut.toInt
    let b3 := intB3 k oss.toNat (b5 - 4000)
    let b4 := intB4 k (b5 - 4000)
    let b7 := intB7 oss.toNat up.toNat b3
    (x1 + k.md = 0 → compensate c oss ut up = .divByZero .compT) ∧
    (x1 + k.md ≠ 0 → b4 = 0 → compensate c oss ut up = .divByZero .compP) ∧
    (x1 + k.md ≠ 0 → b4 ≠ 0 → ∃ dp, compensate c oss ut up = .done dp ∧
      dp.b5.toInt = b5 ∧ dp.t.toInt = intT b5 ∧ dp.b3.toInt = b3 ∧ (dp.b4.toNat : Int) = b4 ∧
      (dp.b7.toNat : Int) = b7 ∧ dp.p.toInt = intPressure (intP11 b7 b4))

/-- R202, the rows whose operation "can wrap: no" up to P1, with their bounds: on a raw count in range the temperature
steps after T1's product are exact. -/
def Obligations.TemperatureStepsNeverWrap : Prop :=
  ∀ (c : Cal) (ut : S32), 0 ≤ ut.toInt → ut.toInt ≤ 65535 →
    let x1 := stepT1 c ut
    let x2 := stepT2 c x1
    let b5 := stepT3 x1 x2
    (ut - zext32 c.ac6).toInt = ut.toInt - c.ac6.toNat ∧
    (-2 ^ 16 ≤ x1.toInt ∧ x1.toInt < 2 ^ 16) ∧
    (shl (sext32 c.mc) 11).toInt = c.mc.toInt * 2048 ∧
    (divisorT2 c x1).toInt = x1.toInt + c.md.toInt ∧
    (-2 ^ 26 ≤ x2.toInt ∧ x2.toInt ≤ 2 ^ 26) ∧
    b5.toInt = x1.toInt + x2.toInt ∧
    (-(2 ^ 26 + 2 ^ 16) ≤ b5.toInt ∧ b5.toInt ≤ 2 ^ 26 + 2 ^ 16) ∧
    (b5 + 8).toInt = b5.toInt + 8 ∧
    (stepP1 b5).toInt = b5.toInt - 4000

/-- R201, R25: the temperature depends on UT, AC5, AC6, MC and MD only, and a fault at T2 too; MB changes nothing. -/
def Obligations.TemperatureDependsOnFiveInputs : Prop :=
  ∀ (c c' : Cal) (oss oss' : U2) (ut : S32) (up up' : U32),
    c'.ac5 = c.ac5 → c'.ac6 = c.ac6 → c'.mc = c.mc → c'.md = c.md →
    (compensate c oss ut up = .divByZero .compT ↔ compensate c' oss' ut up' = .divByZero .compT) ∧
    (∀ dp dp', compensate c oss ut up = .done dp → compensate c' oss' ut up' = .done dp' → dp'.t = dp.t) ∧
    (∀ v : U16, compensate { c with mb := v } oss ut up = compensate c oss ut up)

/-- The spec's own calibration of the worked example (95_test_vectors.md section 1.2), and its vectors V1 (the source's
example), V14 (truncation against floor), V16, V17 (the two faults) and W9 (a negative pressure). -/
def Obligations.WorkedExamples : Prop :=
  let c := decodeCal #v[0x01, 0x98, 0xFF, 0xB8, 0xC7, 0xD1, 0x7F, 0xE5, 0x7F, 0xF5, 0x5A, 0x71, 0x18, 0x2E, 0x00, 0x04,
    0x80, 0x00, 0xDD, 0xF9, 0x0B, 0x34]
  let result (r : CompResult) : Option (Int × Int) :=
    match r with
    | .done dp => some (dp.t.toInt, dp.p.toInt)
    | .divByZero _ => none
  result (compensate c 0 27898 23843) = some (150, 69964) ∧
  result (compensate c 0 26018 23843) = some (-15, 67372) ∧
  compensate c 0 20285 23843 = .divByZero .compT ∧
  compensate { c with ac4 := 0 } 0 27898 23843 = .divByZero .compP ∧
  result (compensate { c with ac4 := 1 } 0 0 0) = some (-1392, -72100417)

/-! ### Calibration block and host-side functions -/

/-- R224: decoding and re-encoding recovers every 22-byte block, and decoding is onto. -/
def Obligations.CalibrationRoundTrip : Prop :=
  (∀ block : Vector U8 22, encodeCal (decodeCal block) = block) ∧ (∀ c : Cal, decodeCal (encodeCal c) = c)

/-- R223: the formatter's text shows every coefficient's name and decimal value. Its layout is the model's choice
(notes/assumptions/19.md), and the statement asks nothing of it. -/
def Obligations.CalibrationTextShowsEveryCoefficient : Prop :=
  ∀ c : Cal, IsCalibrationText c (formatCalibration c)

/-- R222, R221: `altitude` has no result for a non-positive pressure, and for two equal positive pressures its results
are exactly -1, 0 and 1. -/
def Obligations.AltitudeOfEqualOrNonPositivePressures : Prop :=
  (∀ (p p0 : S32) (h : Int), p.toInt ≤ 0 ∨ p0.toInt ≤ 0 → ¬ IsAltitude p p0 h) ∧
  (∀ (p : S32) (h : Int), 0 < p.toInt → (IsAltitude p p h ↔ -1 ≤ h ∧ h ≤ 1))

/-! ### Runs and their end -/

/-- R14, R100: a run without a reset, begun idle, has ended exactly when every command issued in it has its response, and
then the block is idle; until then exactly the last command is without one and the FSM is in a transient state. That a run
without a command has not ended is the model's choice (notes/assumptions/25.md). -/
def Obligations.RunEndsWhenEveryCommandIsAnswered : Prop :=
  ∀ (s : State) (k : Nat) (r : Run), s.Inv → s.fsm.isStable = true → (∀ a ∈ s.inputs, a ≠ .reset) →
    (Run.begin s).steps k = some r →
    r.state.responses = s.responses ++ r.responses ∧
    (r.ended = true ↔ r.commands ≠ [] ∧ r.responses.length = r.commands.length) ∧
    (r.ended = true → r.state.idle) ∧
    (r.ended = false → r.commands ≠ [] →
      r.responses.length + 1 = r.commands.length ∧ r.state.fsm.isStable = false)

/-- R14, R159, R264: a run with a request that nothing answers has not ended and never will. R281: nor has one whose
outstanding command a reset abandons, by that reset; that such a run goes on at all is the model's choice
(notes/assumptions/25.md). -/
def Obligations.UnansweredRunHasNotEnded : Prop :=
  (∀ (r q : Run) (k : Nat), r.state.PendMatchesFsm → r.state.hung → r.steps k = some q → q.ended = false) ∧
  (∀ (r : Run) (rest : List Input), r.outstanding = true → r.state.inputs = .reset :: rest →
    ∃ q, r.next = some q ∧ q.ended = false ∧ q.commands = r.commands ∧ q.responses = r.responses)
end

