-- ==== Sys2Proof/Laws/Arith.lean ====
section
/-! SUPPORT. The pipeline's operators and steps read as integers: one lemma for each operator and one for each step. -/

namespace Sys2Proof.Machine

open Sys2Proof Sys2Proof.Safety

/-! ### Operators (R171 to R174) -/

theorem toInt_sar (a : S32) (n : Nat) : (sar a n).toInt = floorShift a.toInt n := by
  simp [sar, floorShift, BitVec.toInt_sshiftRight, Int.shiftRight_eq_div_pow]

theorem toNat_shr (a : U32) (n : Nat) : (shr a n).toNat = a.toNat / 2 ^ n := by
  simp [shr, Nat.shiftRight_eq_div_pow]

theorem toNat_divU (a b : U32) : (divU a b).toNat = a.toNat / b.toNat := by
  simp [divU]

theorem toInt_divS (a b : S32) : (divS a b).toInt = wrapS (Int.tdiv a.toInt b.toInt) := by
  simp [divS, wrapS, BitVec.toInt_sdiv]

theorem toInt_mul (a b : S32) : (a * b).toInt = wrapS (a.toInt * b.toInt) := BitVec.toInt_mul a b
theorem toInt_add (a b : S32) : (a + b).toInt = wrapS (a.toInt + b.toInt) := BitVec.toInt_add a b
theorem toInt_sub (a b : S32) : (a - b).toInt = wrapS (a.toInt - b.toInt) := BitVec.toInt_sub

theorem toInt_shl (a : S32) (n : Nat) : (shl a n).toInt = wrapS (a.toInt * 2 ^ n) := by
  have h := @Int.emod_bmod ((a.toNat : Int) * 2 ^ n) (2 ^ 32)
  simpa [shl, wrapS, Nat.shiftLeft_eq, BitVec.toInt_eq_toNat_bmod] using h

theorem toInt_sext32 (v : U16) : (sext32 v).toInt = v.toInt := by
  simp [sext32, BitVec.toInt_signExtend_of_le]

theorem toNat_zext32 (v : U16) : (zext32 v).toNat = v.toNat := by
  have := v.isLt
  simp only [zext32, BitVec.toNat_setWidth]
  omega

theorem toInt_zext32 (v : U16) : (zext32 v).toInt = v.toNat := by
  have := v.isLt
  rw [BitVec.toInt_eq_toNat_of_lt (by rw [toNat_zext32]; omega), toNat_zext32]

/-- A value inside the signed range is not changed by the wrap. -/
theorem wrapS_eq {x : Int} (h1 : -2 ^ 31 ≤ x) (h2 : x < 2 ^ 31) : wrapS x = x := by
  unfold wrapS
  exact Int.bmod_eq_of_le (by omega) (by omega)

theorem wrapS_bounds (x : Int) : -2 ^ 31 ≤ wrapS x ∧ wrapS x < 2 ^ 31 := by
  unfold wrapS
  have h1 := Int.le_bmod (x := x) (m := 2 ^ 32) (by decide)
  have h2 := Int.bmod_lt (x := x) (m := 2 ^ 32) (by decide)
  omega

theorem sext_bounds (v : U16) : -2 ^ 15 ≤ v.toInt ∧ v.toInt < 2 ^ 15 :=
  ⟨by simpa using v.le_toInt, by simpa using v.toInt_lt⟩

end Sys2Proof.Machine
end

