-- ==== Sys2Proof/Laws/Compensation.lean ====
section
/-! SUPPORT. Each step of the pipeline as its integer formula, with the ranges that R202 gives. -/

namespace Sys2Proof.Machine

open Sys2Proof Sys2Proof.Safety

theorem floorShift_bounds {x lo hi : Int} {n : Nat} (h1 : lo * 2 ^ n ≤ x) (h2 : x < hi * 2 ^ n) :
    lo ≤ floorShift x n ∧ floorShift x n < hi := by
  have : (0 : Int) < 2 ^ n := by positivity
  exact ⟨(Int.le_ediv_iff_mul_le this).mpr h1, (Int.ediv_lt_iff_lt_mul this).mpr h2⟩

/-! ### Raw counts (R177, R178) -/

theorem rawTempCount_toNat (t : RawT) : (rawTempCount t).toNat = t.msb.toNat * 256 + t.lsb.toNat := by
  have h1 := t.msb.isLt
  have h2 := t.lsb.isLt
  simp only [rawTempCount, BitVec.toNat_setWidth, BitVec.toNat_append, Nat.shiftLeft_eq]
  rw [← Nat.shiftLeft_eq, ← Nat.shiftLeft_add_eq_or_of_lt h2, Nat.shiftLeft_eq]
  omega

theorem rawTempCount_toInt (t : RawT) :
    (rawTempCount t).toInt = (t.msb.toNat * 256 + t.lsb.toNat : Nat) := by
  have h1 := t.msb.isLt
  have h2 := t.lsb.isLt
  have h := rawTempCount_toNat t
  rw [BitVec.toInt_eq_toNat_of_lt (by omega), h]

theorem modeTable_upShift (oss : U2) : (modeTable oss).upShift = 8 - oss.toNat := by revert oss; decide
theorem modeTable_kB7 (oss : U2) : (modeTable oss).kB7.toNat = 50000 / 2 ^ oss.toNat := by revert oss; decide

theorem rawPressCount_toNat (p : RawP) (oss : U2) :
    (rawPressCount p oss).toNat =
      (p.msb.toNat * 65536 + p.lsb.toNat * 256 + p.xlsb.toNat) / 2 ^ (8 - oss.toNat) := by
  have h1 := p.msb.isLt
  have h2 := p.lsb.isLt
  have h3 := p.xlsb.isLt
  simp only [rawPressCount, BitVec.toNat_setWidth, BitVec.toNat_ushiftRight, BitVec.toNat_append,
    modeTable_upShift, Nat.shiftRight_eq_div_pow]
  rw [← Nat.shiftLeft_add_eq_or_of_lt h2, ← Nat.shiftLeft_add_eq_or_of_lt h3]
  simp only [Nat.shiftLeft_eq]
  rw [show (p.msb.toNat * 2 ^ 8 + p.lsb.toNat) * 2 ^ 8 + p.xlsb.toNat =
    p.msb.toNat * 65536 + p.lsb.toNat * 256 + p.xlsb.toNat by ring]
  apply Nat.mod_eq_of_lt
  exact lt_of_le_of_lt (Nat.div_le_self _ _) (by omega)

/-! ### Temperature steps -/

theorem stepT1_toInt (c : Cal) {ut : S32} (h0 : 0 ≤ ut.toInt) (h1 : ut.toInt < 2 ^ 16) :
    (stepT1 c ut).toInt = intX1 (.of c) ut.toInt := by
  have := c.ac6.isLt
  rw [stepT1, toInt_sar, toInt_mul, toInt_sub, toInt_zext32, toInt_zext32, wrapS_eq (x := _ - _) (by omega) (by omega)]
  rfl

theorem intX1_bounds (k : IntCal) (ut : Int) : -2 ^ 16 ≤ intX1 k ut ∧ intX1 k ut < 2 ^ 16 := by
  have := wrapS_bounds ((ut - k.ac6) * k.ac5)
  exact floorShift_bounds (by omega) (by omega)

theorem divisorT2_toInt (c : Cal) {x1 : S32} (h0 : -2 ^ 16 ≤ x1.toInt) (h1 : x1.toInt < 2 ^ 16) :
    (divisorT2 c x1).toInt = x1.toInt + c.md.toInt := by
  have := sext_bounds c.md
  rw [divisorT2, toInt_add, toInt_sext32, wrapS_eq (by omega) (by omega)]

theorem tdiv_bounds {a b B : Int} (h0 : -B ≤ a) (h1 : a ≤ B) : -B ≤ Int.tdiv a b ∧ Int.tdiv a b ≤ B := by
  have h : (Int.tdiv a b).natAbs ≤ a.natAbs := by
    rw [Int.natAbs_tdiv]; exact Nat.div_le_self _ _
  omega

theorem stepT2_toInt (c : Cal) {x1 : S32} (h0 : -2 ^ 16 ≤ x1.toInt) (h1 : x1.toInt < 2 ^ 16) :
    (stepT2 c x1).toInt = Int.tdiv (c.mc.toInt * 2 ^ 11) (x1.toInt + c.md.toInt) := by
  have hm := sext_bounds c.mc
  rw [stepT2, toInt_divS, divisorT2_toInt c h0 h1, toInt_shl, toInt_sext32, wrapS_eq (x := _ * _) (by omega) (by omega)]
  have := tdiv_bounds (a := c.mc.toInt * 2 ^ 11) (b := x1.toInt + c.md.toInt) (B := 2 ^ 26) (by omega) (by omega)
  exact wrapS_eq (by omega) (by omega)

theorem stepT2_bounds (c : Cal) {x1 : S32} (h0 : -2 ^ 16 ≤ x1.toInt) (h1 : x1.toInt < 2 ^ 16) :
    -2 ^ 26 ≤ (stepT2 c x1).toInt ∧ (stepT2 c x1).toInt ≤ 2 ^ 26 := by
  have hm := sext_bounds c.mc
  rw [stepT2_toInt c h0 h1]
  exact tdiv_bounds (by omega) (by omega)

theorem stepT3_toInt {x1 x2 : S32} (h0 : -2 ^ 16 ≤ x1.toInt) (h1 : x1.toInt < 2 ^ 16) (h2 : -2 ^ 26 ≤ x2.toInt)
    (h3 : x2.toInt ≤ 2 ^ 26) : (stepT3 x1 x2).toInt = x1.toInt + x2.toInt := by
  rw [stepT3, toInt_add, wrapS_eq (by omega) (by omega)]

theorem stepT4_toInt {b5 : S32} (h0 : -2 ^ 27 ≤ b5.toInt) (h1 : b5.toInt ≤ 2 ^ 27) :
    (stepT4 b5).toInt = intT b5.toInt := by
  rw [stepT4, toInt_sar, toInt_add, show ((8 : S32)).toInt = 8 by decide, wrapS_eq (by omega) (by omega)]
  rfl

/-! ### Pressure steps -/

theorem stepP1_toInt {b5 : S32} (h0 : -2 ^ 27 ≤ b5.toInt) (h1 : b5.toInt ≤ 2 ^ 27) :
    (stepP1 b5).toInt = b5.toInt - 4000 := by
  rw [stepP1, toInt_sub, show ((4000 : S32)).toInt = 4000 by decide, wrapS_eq (by omega) (by omega)]

theorem square_toInt (b6 : S32) : (sar (b6 * b6) 12).toInt = intSquare b6.toInt := by
  rw [toInt_sar, toInt_mul]; rfl

theorem stepP2_toInt (c : Cal) (b6 : S32) :
    (stepP2 c b6).toInt = floorShift (wrapS (c.b2.toInt * intSquare b6.toInt)) 11 := by
  rw [stepP2, toInt_sar, toInt_mul, toInt_sext32, square_toInt]

theorem stepP3_toInt (c : Cal) (b6 : S32) :
    (stepP3 c b6).toInt = floorShift (wrapS (c.ac2.toInt * b6.toInt)) 11 := by
  rw [stepP3, toInt_sar, toInt_mul, toInt_sext32]

theorem wrapShift_bounds (x : Int) (n : Nat) (hn : n ≤ 31) :
    -2 ^ (31 - n) ≤ floorShift (wrapS x) n ∧ floorShift (wrapS x) n < 2 ^ (31 - n) := by
  have h := wrapS_bounds x
  have hp : (2 : Int) ^ (31 - n) * 2 ^ n = 2 ^ 31 := by rw [← pow_add]; congr 1; omega
  refine floorShift_bounds ?_ ?_
  · rw [neg_mul, hp]; exact h.1
  · rw [hp]; exact h.2

theorem stepP4_toInt {x1 x2 : S32} (h1 : -2 ^ 20 ≤ x1.toInt ∧ x1.toInt < 2 ^ 20)
    (h2 : -2 ^ 20 ≤ x2.toInt ∧ x2.toInt < 2 ^ 20) : (stepP4 x1 x2).toInt = x1.toInt + x2.toInt := by
  rw [stepP4, toInt_add, wrapS_eq (by omega) (by omega)]

theorem stepP5_toInt (c : Cal) (oss : U2) {x3 : S32} (h : -2 ^ 21 ≤ x3.toInt ∧ x3.toInt < 2 ^ 21) :
    (stepP5 c oss x3).toInt = Int.tdiv ((c.ac1.toInt * 4 + x3.toInt) * 2 ^ oss.toNat + 2) 4 := by
  have ha := sext_bounds c.ac1
  have ho := oss.isLt
  rw [stepP5, toInt_divS, toInt_add, toInt_shl, toInt_add, toInt_mul, toInt_sext32,
    show ((4 : S32)).toInt = 4 by decide, show ((2 : S32)).toInt = 2 by decide,
    wrapS_eq (x := c.ac1.toInt * 4) (by omega) (by omega), wrapS_eq (x := c.ac1.toInt * 4 + x3.toInt) (by omega) (by omega)]
  generalize hy : c.ac1.toInt * 4 + x3.toInt = y
  have hb : -2 ^ 22 ≤ y ∧ y < 2 ^ 22 := by omega
  have hs : -2 ^ 25 ≤ y * 2 ^ oss.toNat ∧ y * 2 ^ oss.toNat ≤ 2 ^ 25 := by
    generalize oss.toNat = n at *
    interval_cases n <;> omega
  rw [wrapS_eq (x := y * _) (by omega) (by omega), wrapS_eq (x := _ + 2) (by omega) (by omega)]
  have := tdiv_bounds (a := y * 2 ^ oss.toNat + 2) (b := 4) (B := 2 ^ 26) (by omega) (by omega)
  exact wrapS_eq (by omega) (by omega)

theorem stepP6_toInt (c : Cal) (b6 : S32) :
    (stepP6 c b6).toInt = floorShift (wrapS (c.ac3.toInt * b6.toInt)) 13 := by
  rw [stepP6, toInt_sar, toInt_mul, toInt_sext32]

theorem stepP7_toInt (c : Cal) (b6 : S32) :
    (stepP7 c b6).toInt = floorShift (wrapS (c.b1.toInt * intSquare b6.toInt)) 16 := by
  rw [stepP7, toInt_sar, toInt_mul, toInt_sext32, square_toInt]

theorem stepP8_toInt {x1 x2 : S32} (h1 : -2 ^ 18 ≤ x1.toInt ∧ x1.toInt < 2 ^ 18)
    (h2 : -2 ^ 15 ≤ x2.toInt ∧ x2.toInt < 2 ^ 15) :
    (stepP8 x1 x2).toInt = floorShift (x1.toInt + x2.toInt + 2) 2 := by
  rw [stepP8, toInt_sar, toInt_add, toInt_add, show ((2 : S32)).toInt = 2 by decide,
    wrapS_eq (x := x1.toInt + x2.toInt) (by omega) (by omega), wrapS_eq (by omega) (by omega)]

theorem wrapU_wrapS (x : Int) : wrapU (wrapS x) = wrapU x := @Int.bmod_emod x (2 ^ 32)

theorem wrapS_wrapU (x : Int) : wrapS (wrapU x) = wrapS x := Int.emod_bmod x (2 ^ 32)

theorem toInt_eq_wrapS (a : U32) : a.toInt = wrapS a.toNat := BitVec.toInt_eq_toNat_bmod a

theorem wrapU_eq {x : Int} (h0 : 0 ≤ x) (h1 : x < 2 ^ 32) : wrapU x = x := Int.emod_eq_of_lt h0 h1

theorem toNat_eq_wrapU (a : U32) : (a.toNat : Int) = wrapU a.toInt := by
  have := a.isLt
  rw [toInt_eq_wrapS, wrapU_wrapS, wrapU_eq (by omega) (by omega)]

theorem toNat_mul_eq_wrapU (a b : U32) : ((a * b).toNat : Int) = wrapU (a.toNat * b.toNat) := by
  rw [BitVec.toNat_mul]; exact Int.natCast_mod _ _

theorem stepP9_toNat (c : Cal) {x3 : S32} :
    ((stepP9 c x3).toNat : Int) = floorShift (wrapU (c.ac4.toNat * wrapU (x3.toInt + 32768))) 15 := by
  have e : ((x3 + 32768).toNat : Int) = wrapU (x3.toInt + 32768) := by
    rw [toNat_eq_wrapU, toInt_add, wrapU_wrapS, show ((32768 : S32)).toInt = 32768 by decide]
  rw [stepP9, toNat_shr, Int.natCast_div, toNat_mul_eq_wrapU, toNat_zext32, e]
  rfl

theorem stepP10_toNat (oss : U2) (up : U32) (b3 : S32) :
    ((stepP10 oss up b3).toNat : Int) = intB7 oss.toNat up.toNat b3.toInt := by
  have e : ((up - b3).toNat : Int) = wrapU (up.toNat - b3.toInt) := by
    rw [toNat_eq_wrapU, toInt_sub, wrapU_wrapS, toInt_eq_wrapS up]
    unfold wrapU wrapS
    rw [Int.sub_emod, show (2 : Int) ^ 32 = ((2 ^ 32 : Nat) : Int) by rfl, Int.bmod_emod, ← Int.sub_emod]
  rw [stepP10, toNat_mul_eq_wrapU, e, modeTable_kB7]
  simp only [intB7, Int.natCast_div, Int.natCast_pow]
  rfl

theorem stepP11_toInt (b7 b4 : U32) :
    BitVec.toInt (stepP11 b7 b4) = intP11 b7.toNat b4.toNat := by
  have hb := b7.isLt
  have hlt : b7 < (0x80000000 : U32) ↔ (b7.toNat : Int) < 2 ^ 31 := by
    rw [BitVec.lt_def, show ((0x80000000 : U32)).toNat = 2 ^ 31 by decide]
    omega
  unfold stepP11 intP11
  by_cases h : (b7.toNat : Int) < 2 ^ 31
  · rw [if_pos (hlt.mpr h), if_pos h, toInt_eq_wrapS, toNat_divU, Int.natCast_div, toNat_mul_eq_wrapU,
      show ((2 : U32)).toNat = 2 by decide, wrapU_eq (by omega) (by omega)]
    rfl
  · rw [if_neg (fun hh => h (hlt.mp hh)), if_neg h, toInt_eq_wrapS, toNat_mul_eq_wrapU, toNat_divU, Int.natCast_div,
      show ((2 : U32)).toNat = 2 by decide, wrapS_wrapU]
    rfl

theorem stepP12_toInt (p : S32) : (stepP12 p).toInt = wrapS (floorShift p.toInt 8 * floorShift p.toInt 8) := by
  rw [stepP12, toInt_mul, toInt_sar]

theorem stepP13_toInt (x1 : S32) : (stepP13 x1).toInt = floorShift (wrapS (x1.toInt * 3038)) 16 := by
  rw [stepP13, toInt_sar, toInt_mul, show ((3038 : S32)).toInt = 3038 by decide]

theorem stepP14_toInt (p : S32) : (stepP14 p).toInt = floorShift (wrapS (-7357 * p.toInt)) 16 := by
  rw [stepP14, toInt_sar, toInt_mul, show ((-7357 : S32)).toInt = -7357 by decide]

theorem stepP15_toInt {p x1 x2 : S32} (h1 : -2 ^ 15 ≤ x1.toInt ∧ x1.toInt < 2 ^ 15)
    (h2 : -2 ^ 15 ≤ x2.toInt ∧ x2.toInt < 2 ^ 15) :
    (stepP15 p x1 x2).toInt = wrapS (p.toInt + floorShift (x1.toInt + x2.toInt + 3791) 4) := by
  rw [stepP15, toInt_add, toInt_sar, toInt_add, toInt_add, show ((3791 : S32)).toInt = 3791 by decide,
    wrapS_eq (x := x1.toInt + x2.toInt) (by omega) (by omega),
    wrapS_eq (x := x1.toInt + x2.toInt + 3791) (by omega) (by omega)]

end Sys2Proof.Machine
end

