-- ==== Sys2Proof/Laws/Decode.lean ====
section
/-! SUPPORT. Fields of concatenations, and R80's match and mask rows against R82's slices. -/

namespace Sys2Proof

/-- One bit of a slice (R7). -/
theorem slice_getLsbD {n : Nat} (v : BitVec n) (lo len i : Nat) (h : i < len) :
    (slice v lo len).getLsbD i = v.getLsbD (lo + i) := by
  simp [slice, h]

/-- A slice says what the bits of its range are. -/
theorem getLsbD_of_slice {n lo len : Nat} {v : BitVec n} {c : BitVec len} (h : slice v lo len = c) {j : Nat}
    (h1 : lo ≤ j) (h2 : j < lo + len) : v.getLsbD j = c.getLsbD (j - lo) := by
  rw [← h, slice_getLsbD v lo len (j - lo) (by omega)]
  congr 1
  omega

/-- The fields of INIT's word (R79). -/
theorem initWord_fields (a m : U8) :
    slice ((0 : U8) ++ m ++ a ++ (0x01 : U8)) 0 8 = 0x01 ∧
    slice ((0 : U8) ++ m ++ a ++ (0x01 : U8)) 8 8 = a ∧
    slice ((0 : U8) ++ m ++ a ++ (0x01 : U8)) 16 8 = m ∧
    slice ((0 : U8) ++ m ++ a ++ (0x01 : U8)) 24 8 = 0 := by
  refine ⟨?_, ?_, ?_, ?_⟩ <;>
  · apply BitVec.eq_of_getLsbD_eq
    intro i hi
    rw [slice_getLsbD _ _ _ _ hi]
    simp only [BitVec.getLsbD_append]
    interval_cases i <;> simp

/-- INIT's row of R80 takes exactly the words with `OP = 0x01` and `Z = 0`. -/
theorem takes_init (w : U32) :
    HostRow.takes ⟨0x00000001, 0xFF0000FF⟩ w = true ↔ slice w 0 8 = 0x01 ∧ slice w 24 8 = 0 := by
  simp only [HostRow.takes, beq_iff_eq]
  constructor
  · intro h
    have bit (j : Nat) : (w &&& (0xFF0000FF : U32)).getLsbD j = (1 : U32).getLsbD j := by rw [h]
    constructor <;>
    · apply BitVec.eq_of_getLsbD_eq
      intro i hi
      rw [slice_getLsbD _ _ _ _ hi]
      interval_cases i
      all_goals
        first
        | simpa using bit 0 | simpa using bit 1 | simpa using bit 2 | simpa using bit 3
        | simpa using bit 4 | simpa using bit 5 | simpa using bit 6 | simpa using bit 7
        | simpa using bit 24 | simpa using bit 25 | simpa using bit 26 | simpa using bit 27
        | simpa using bit 28 | simpa using bit 29 | simpa using bit 30 | simpa using bit 31
  · rintro ⟨h0, h24⟩
    apply BitVec.eq_of_getLsbD_eq
    intro i hi
    have lo (hl : i < 8) := getLsbD_of_slice h0 (j := i) (by omega) (by omega)
    have up (hl : 24 ≤ i) := getLsbD_of_slice h24 (j := i) hl (by omega)
    rw [BitVec.getLsbD_and]
    interval_cases i <;> simp_all

/-- A full-mask row of R80 takes exactly its own word, which is `OP` below 24 zero bits. -/
theorem word_of_slices (w : U32) (op : U8) :
    slice w 0 8 = op ∧ slice w 8 24 = 0 ↔ w = op.setWidth 32 := by
  constructor
  · rintro ⟨h0, h8⟩
    apply BitVec.eq_of_getLsbD_eq
    intro i hi
    by_cases hl : i < 8
    · rw [getLsbD_of_slice h0 (by omega) (by omega)]; simp [hi]
    · rw [getLsbD_of_slice h8 (by omega) (by omega)]; simp [Nat.not_lt.mp hl]
  · rintro rfl
    constructor <;>
    · apply BitVec.eq_of_getLsbD_eq
      intro i hi
      rw [slice_getLsbD _ _ _ _ hi]
      simp [hi, Nat.lt_of_lt_of_le hi]

theorem takes_full (c w : U32) : HostRow.takes ⟨c, 0xFFFFFFFF⟩ w = true ↔ w = c := by
  have : w &&& 0xFFFFFFFF#32 = w := BitVec.and_allOnes
  simp [HostRow.takes, this]

/-- The pressure command byte of R73 by its fields. -/
theorem pressureCommand_fields (mm : U2) :
    slice (pressureCommand mm) 0 6 = 0b110100 ∧ slice (pressureCommand mm) 6 2 = mm ∧
    pressureCommand mm ≠ 0x2E := by
  revert mm; decide

end Sys2Proof
end

