-- ==== Sys2Proof/Laws/State.lean ====
section
/-! SUPPORT. One lemma for each field under each basic update of the state, true by `rfl`. -/

namespace Sys2Proof.Machine

open Sys2Proof

/-! ### `issue` -/

@[simp] theorem State.issue_fsm (s : State) (r : Request) : (s.issue r).fsm = s.fsm := rfl
@[simp] theorem State.issue_devAddr (s : State) (r : Request) : (s.issue r).devAddr = s.devAddr := rfl
@[simp] theorem State.issue_oss (s : State) (r : Request) : (s.issue r).oss = s.oss := rfl
@[simp] theorem State.issue_cal (s : State) (r : Request) : (s.issue r).cal = s.cal := rfl
@[simp] theorem State.issue_rawT (s : State) (r : Request) : (s.issue r).rawT = s.rawT := rfl
@[simp] theorem State.issue_rawP (s : State) (r : Request) : (s.issue r).rawP = s.rawP := rfl
@[simp] theorem State.issue_tempTenths (s : State) (r : Request) : (s.issue r).tempTenths = s.tempTenths := rfl
@[simp] theorem State.issue_pressure (s : State) (r : Request) : (s.issue r).pressure = s.pressure := rfl
@[simp] theorem State.issue_calValid (s : State) (r : Request) : (s.issue r).calValid = s.calValid := rfl
@[simp] theorem State.issue_rdValid (s : State) (r : Request) : (s.issue r).rdValid = s.rdValid := rfl
@[simp] theorem State.issue_faultDz (s : State) (r : Request) : (s.issue r).faultDz = s.faultDz := rfl
@[simp] theorem State.issue_lastStatus (s : State) (r : Request) : (s.issue r).lastStatus = s.lastStatus := rfl
@[simp] theorem State.issue_lastBusError (s : State) (r : Request) : (s.issue r).lastBusError = s.lastBusError := rfl
@[simp] theorem State.issue_stgAddr (s : State) (r : Request) : (s.issue r).stgAddr = s.stgAddr := rfl
@[simp] theorem State.issue_stgMode (s : State) (r : Request) : (s.issue r).stgMode = s.stgMode := rfl
@[simp] theorem State.issue_stgCal (s : State) (r : Request) : (s.issue r).stgCal = s.stgCal := rfl
@[simp] theorem State.issue_stgT (s : State) (r : Request) : (s.issue r).stgT = s.stgT := rfl
@[simp] theorem State.issue_stgP (s : State) (r : Request) : (s.issue r).stgP = s.stgP := rfl
@[simp] theorem State.issue_dp (s : State) (r : Request) : (s.issue r).dp = s.dp := rfl
@[simp] theorem State.issue_pend (s : State) (r : Request) : (s.issue r).pend = some r := rfl
@[simp] theorem State.issue_trace (s : State) (r : Request) : (s.issue r).trace = s.trace ++ [r.issueEvent] := rfl
@[simp] theorem State.issue_inputs (s : State) (r : Request) : (s.issue r).inputs = s.inputs := rfl
@[simp] theorem State.issue_responses (s : State) (r : Request) : (s.issue r).responses = s.responses := rfl

/-! ### `answered` -/

@[simp] theorem State.answered_fsm (s : State) (ev : Event) (rest : List Input) :
    (s.answered ev rest).fsm = s.fsm := rfl
@[simp] theorem State.answered_devAddr (s : State) (ev : Event) (rest : List Input) :
    (s.answered ev rest).devAddr = s.devAddr := rfl
@[simp] theorem State.answered_oss (s : State) (ev : Event) (rest : List Input) :
    (s.answered ev rest).oss = s.oss := rfl
@[simp] theorem State.answered_cal (s : State) (ev : Event) (rest : List Input) :
    (s.answered ev rest).cal = s.cal := rfl
@[simp] theorem State.answered_rawT (s : State) (ev : Event) (rest : List Input) :
    (s.answered ev rest).rawT = s.rawT := rfl
@[simp] theorem State.answered_rawP (s : State) (ev : Event) (rest : List Input) :
    (s.answered ev rest).rawP = s.rawP := rfl
@[simp] theorem State.answered_tempTenths (s : State) (ev : Event) (rest : List Input) :
    (s.answered ev rest).tempTenths = s.tempTenths := rfl
@[simp] theorem State.answered_pressure (s : State) (ev : Event) (rest : List Input) :
    (s.answered ev rest).pressure = s.pressure := rfl
@[simp] theorem State.answered_calValid (s : State) (ev : Event) (rest : List Input) :
    (s.answered ev rest).calValid = s.calValid := rfl
@[simp] theorem State.answered_rdValid (s : State) (ev : Event) (rest : List Input) :
    (s.answered ev rest).rdValid = s.rdValid := rfl
@[simp] theorem State.answered_faultDz (s : State) (ev : Event) (rest : List Input) :
    (s.answered ev rest).faultDz = s.faultDz := rfl
@[simp] theorem State.answered_lastStatus (s : State) (ev : Event) (rest : List Input) :
    (s.answered ev rest).lastStatus = s.lastStatus := rfl
@[simp] theorem State.answered_lastBusError (s : State) (ev : Event) (rest : List Input) :
    (s.answered ev rest).lastBusError = s.lastBusError := rfl
@[simp] theorem State.answered_stgAddr (s : State) (ev : Event) (rest : List Input) :
    (s.answered ev rest).stgAddr = s.stgAddr := rfl
@[simp] theorem State.answered_stgMode (s : State) (ev : Event) (rest : List Input) :
    (s.answered ev rest).stgMode = s.stgMode := rfl
@[simp] theorem State.answered_stgCal (s : State) (ev : Event) (rest : List Input) :
    (s.answered ev rest).stgCal = s.stgCal := rfl
@[simp] theorem State.answered_stgT (s : State) (ev : Event) (rest : List Input) :
    (s.answered ev rest).stgT = s.stgT := rfl
@[simp] theorem State.answered_stgP (s : State) (ev : Event) (rest : List Input) :
    (s.answered ev rest).stgP = s.stgP := rfl
@[simp] theorem State.answered_dp (s : State) (ev : Event) (rest : List Input) : (s.answered ev rest).dp = s.dp := rfl
@[simp] theorem State.answered_pend (s : State) (ev : Event) (rest : List Input) :
    (s.answered ev rest).pend = none := rfl
@[simp] theorem State.answered_trace (s : State) (ev : Event) (rest : List Input) :
    (s.answered ev rest).trace = s.trace ++ [ev] := rfl
@[simp] theorem State.answered_inputs (s : State) (ev : Event) (rest : List Input) :
    (s.answered ev rest).inputs = rest := rfl
@[simp] theorem State.answered_responses (s : State) (ev : Event) (rest : List Input) :
    (s.answered ev rest).responses = s.responses := rfl

/-! ### `dropInput` -/

@[simp] theorem State.dropInput_fsm (s : State) : (s.dropInput).fsm = s.fsm := rfl
@[simp] theorem State.dropInput_devAddr (s : State) : (s.dropInput).devAddr = s.devAddr := rfl
@[simp] theorem State.dropInput_oss (s : State) : (s.dropInput).oss = s.oss := rfl
@[simp] theorem State.dropInput_cal (s : State) : (s.dropInput).cal = s.cal := rfl
@[simp] theorem State.dropInput_rawT (s : State) : (s.dropInput).rawT = s.rawT := rfl
@[simp] theorem State.dropInput_rawP (s : State) : (s.dropInput).rawP = s.rawP := rfl
@[simp] theorem State.dropInput_tempTenths (s : State) : (s.dropInput).tempTenths = s.tempTenths := rfl
@[simp] theorem State.dropInput_pressure (s : State) : (s.dropInput).pressure = s.pressure := rfl
@[simp] theorem State.dropInput_calValid (s : State) : (s.dropInput).calValid = s.calValid := rfl
@[simp] theorem State.dropInput_rdValid (s : State) : (s.dropInput).rdValid = s.rdValid := rfl
@[simp] theorem State.dropInput_faultDz (s : State) : (s.dropInput).faultDz = s.faultDz := rfl
@[simp] theorem State.dropInput_lastStatus (s : State) : (s.dropInput).lastStatus = s.lastStatus := rfl
@[simp] theorem State.dropInput_lastBusError (s : State) : (s.dropInput).lastBusError = s.lastBusError := rfl
@[simp] theorem State.dropInput_stgAddr (s : State) : (s.dropInput).stgAddr = s.stgAddr := rfl
@[simp] theorem State.dropInput_stgMode (s : State) : (s.dropInput).stgMode = s.stgMode := rfl
@[simp] theorem State.dropInput_stgCal (s : State) : (s.dropInput).stgCal = s.stgCal := rfl
@[simp] theorem State.dropInput_stgT (s : State) : (s.dropInput).stgT = s.stgT := rfl
@[simp] theorem State.dropInput_stgP (s : State) : (s.dropInput).stgP = s.stgP := rfl
@[simp] theorem State.dropInput_dp (s : State) : (s.dropInput).dp = s.dp := rfl
@[simp] theorem State.dropInput_pend (s : State) : (s.dropInput).pend = s.pend := rfl
@[simp] theorem State.dropInput_trace (s : State) : (s.dropInput).trace = s.trace := rfl
@[simp] theorem State.dropInput_inputs (s : State) : (s.dropInput).inputs = s.inputs.tail := rfl
@[simp] theorem State.dropInput_responses (s : State) : (s.dropInput).responses = s.responses := rfl

/-! ### `goto` -/

@[simp] theorem State.goto_fsm (s : State) (f : Fsm) : (s.goto f).fsm = f := rfl
@[simp] theorem State.goto_devAddr (s : State) (f : Fsm) : (s.goto f).devAddr = s.devAddr := rfl
@[simp] theorem State.goto_oss (s : State) (f : Fsm) : (s.goto f).oss = s.oss := rfl
@[simp] theorem State.goto_cal (s : State) (f : Fsm) : (s.goto f).cal = s.cal := rfl
@[simp] theorem State.goto_rawT (s : State) (f : Fsm) : (s.goto f).rawT = s.rawT := rfl
@[simp] theorem State.goto_rawP (s : State) (f : Fsm) : (s.goto f).rawP = s.rawP := rfl
@[simp] theorem State.goto_tempTenths (s : State) (f : Fsm) : (s.goto f).tempTenths = s.tempTenths := rfl
@[simp] theorem State.goto_pressure (s : State) (f : Fsm) : (s.goto f).pressure = s.pressure := rfl
@[simp] theorem State.goto_calValid (s : State) (f : Fsm) : (s.goto f).calValid = s.calValid := rfl
@[simp] theorem State.goto_rdValid (s : State) (f : Fsm) : (s.goto f).rdValid = s.rdValid := rfl
@[simp] theorem State.goto_faultDz (s : State) (f : Fsm) : (s.goto f).faultDz = s.faultDz := rfl
@[simp] theorem State.goto_lastStatus (s : State) (f : Fsm) : (s.goto f).lastStatus = s.lastStatus := rfl
@[simp] theorem State.goto_lastBusError (s : State) (f : Fsm) : (s.goto f).lastBusError = s.lastBusError := rfl
@[simp] theorem State.goto_stgAddr (s : State) (f : Fsm) : (s.goto f).stgAddr = s.stgAddr := rfl
@[simp] theorem State.goto_stgMode (s : State) (f : Fsm) : (s.goto f).stgMode = s.stgMode := rfl
@[simp] theorem State.goto_stgCal (s : State) (f : Fsm) : (s.goto f).stgCal = s.stgCal := rfl
@[simp] theorem State.goto_stgT (s : State) (f : Fsm) : (s.goto f).stgT = s.stgT := rfl
@[simp] theorem State.goto_stgP (s : State) (f : Fsm) : (s.goto f).stgP = s.stgP := rfl
@[simp] theorem State.goto_dp (s : State) (f : Fsm) : (s.goto f).dp = s.dp := rfl
@[simp] theorem State.goto_pend (s : State) (f : Fsm) : (s.goto f).pend = s.pend := rfl
@[simp] theorem State.goto_trace (s : State) (f : Fsm) : (s.goto f).trace = s.trace := rfl
@[simp] theorem State.goto_inputs (s : State) (f : Fsm) : (s.goto f).inputs = s.inputs := rfl
@[simp] theorem State.goto_responses (s : State) (f : Fsm) : (s.goto f).responses = s.responses := rfl

/-! ### `respond` -/

@[simp] theorem State.respond_fsm (s : State) (w : U32) (d : Data) (e : Option BusError) :
    (s.respond w d e).fsm = s.fsm := rfl
@[simp] theorem State.respond_devAddr (s : State) (w : U32) (d : Data) (e : Option BusError) :
    (s.respond w d e).devAddr = s.devAddr := rfl
@[simp] theorem State.respond_oss (s : State) (w : U32) (d : Data) (e : Option BusError) :
    (s.respond w d e).oss = s.oss := rfl
@[simp] theorem State.respond_cal (s : State) (w : U32) (d : Data) (e : Option BusError) :
    (s.respond w d e).cal = s.cal := rfl
@[simp] theorem State.respond_rawT (s : State) (w : U32) (d : Data) (e : Option BusError) :
    (s.respond w d e).rawT = s.rawT := rfl
@[simp] theorem State.respond_rawP (s : State) (w : U32) (d : Data) (e : Option BusError) :
    (s.respond w d e).rawP = s.rawP := rfl
@[simp] theorem State.respond_tempTenths (s : State) (w : U32) (d : Data) (e : Option BusError) :
    (s.respond w d e).tempTenths = s.tempTenths := rfl
@[simp] theorem State.respond_pressure (s : State) (w : U32) (d : Data) (e : Option BusError) :
    (s.respond w d e).pressure = s.pressure := rfl
@[simp] theorem State.respond_calValid (s : State) (w : U32) (d : Data) (e : Option BusError) :
    (s.respond w d e).calValid = s.calValid := rfl
@[simp] theorem State.respond_rdValid (s : State) (w : U32) (d : Data) (e : Option BusError) :
    (s.respond w d e).rdValid = s.rdValid := rfl
@[simp] theorem State.respond_faultDz (s : State) (w : U32) (d : Data) (e : Option BusError) :
    (s.respond w d e).faultDz = s.faultDz := rfl
@[simp] theorem State.respond_lastStatus (s : State) (w : U32) (d : Data) (e : Option BusError) :
    (s.respond w d e).lastStatus = s.lastStatus := rfl
@[simp] theorem State.respond_lastBusError (s : State) (w : U32) (d : Data) (e : Option BusError) :
    (s.respond w d e).lastBusError = s.lastBusError := rfl
@[simp] theorem State.respond_stgAddr (s : State) (w : U32) (d : Data) (e : Option BusError) :
    (s.respond w d e).stgAddr = s.stgAddr := rfl
@[simp] theorem State.respond_stgMode (s : State) (w : U32) (d : Data) (e : Option BusError) :
    (s.respond w d e).stgMode = s.stgMode := rfl
@[simp] theorem State.respond_stgCal (s : State) (w : U32) (d : Data) (e : Option BusError) :
    (s.respond w d e).stgCal = s.stgCal := rfl
@[simp] theorem State.respond_stgT (s : State) (w : U32) (d : Data) (e : Option BusError) :
    (s.respond w d e).stgT = s.stgT := rfl
@[simp] theorem State.respond_stgP (s : State) (w : U32) (d : Data) (e : Option BusError) :
    (s.respond w d e).stgP = s.stgP := rfl
@[simp] theorem State.respond_dp (s : State) (w : U32) (d : Data) (e : Option BusError) :
    (s.respond w d e).dp = s.dp := rfl
@[simp] theorem State.respond_pend (s : State) (w : U32) (d : Data) (e : Option BusError) :
    (s.respond w d e).pend = s.pend := rfl
@[simp] theorem State.respond_trace (s : State) (w : U32) (d : Data) (e : Option BusError) :
    (s.respond w d e).trace = s.trace := rfl
@[simp] theorem State.respond_inputs (s : State) (w : U32) (d : Data) (e : Option BusError) :
    (s.respond w d e).inputs = s.inputs := rfl
@[simp] theorem State.respond_responses (s : State) (w : U32) (d : Data) (e : Option BusError) :
    (s.respond w d e).responses = s.responses ++ [⟨w, d, e⟩] := rfl

/-! ### `endCommand` -/

@[simp] theorem State.endCommand_fsm (s : State) (c : OutcomeCode) (p : StepCode) (k : Option BusClass) (d : Data) :
    (s.endCommand c p k d).fsm = s.fsm := rfl
@[simp] theorem State.endCommand_devAddr (s : State) (c : OutcomeCode) (p : StepCode) (k : Option BusClass) (d : Data) :
    (s.endCommand c p k d).devAddr = s.devAddr := rfl
@[simp] theorem State.endCommand_oss (s : State) (c : OutcomeCode) (p : StepCode) (k : Option BusClass) (d : Data) :
    (s.endCommand c p k d).oss = s.oss := rfl
@[simp] theorem State.endCommand_cal (s : State) (c : OutcomeCode) (p : StepCode) (k : Option BusClass) (d : Data) :
    (s.endCommand c p k d).cal = s.cal := rfl
@[simp] theorem State.endCommand_rawT (s : State) (c : OutcomeCode) (p : StepCode) (k : Option BusClass) (d : Data) :
    (s.endCommand c p k d).rawT = s.rawT := rfl
@[simp] theorem State.endCommand_rawP (s : State) (c : OutcomeCode) (p : StepCode) (k : Option BusClass) (d : Data) :
    (s.endCommand c p k d).rawP = s.rawP := rfl
@[simp] theorem State.endCommand_tempTenths (s : State) (c : OutcomeCode) (p : StepCode) (k : Option BusClass) (d : Data) :
    (s.endCommand c p k d).tempTenths = s.tempTenths := rfl
@[simp] theorem State.endCommand_pressure (s : State) (c : OutcomeCode) (p : StepCode) (k : Option BusClass) (d : Data) :
    (s.endCommand c p k d).pressure = s.pressure := rfl
@[simp] theorem State.endCommand_calValid (s : State) (c : OutcomeCode) (p : StepCode) (k : Option BusClass) (d : Data) :
    (s.endCommand c p k d).calValid = s.calValid := rfl
@[simp] theorem State.endCommand_rdValid (s : State) (c : OutcomeCode) (p : StepCode) (k : Option BusClass) (d : Data) :
    (s.endCommand c p k d).rdValid = s.rdValid := rfl
@[simp] theorem State.endCommand_faultDz (s : State) (c : OutcomeCode) (p : StepCode) (k : Option BusClass) (d : Data) :
    (s.endCommand c p k d).faultDz = s.faultDz := rfl
@[simp] theorem State.endCommand_lastStatus (s : State) (c : OutcomeCode) (p : StepCode) (k : Option BusClass) (d : Data) :
    (s.endCommand c p k d).lastStatus = s.statusWord c p k := rfl
@[simp] theorem State.endCommand_lastBusError (s : State) (c : OutcomeCode) (p : StepCode) (k : Option BusClass) (d : Data) :
    (s.endCommand c p k d).lastBusError = s.lastBusError := rfl
@[simp] theorem State.endCommand_stgAddr (s : State) (c : OutcomeCode) (p : StepCode) (k : Option BusClass) (d : Data) :
    (s.endCommand c p k d).stgAddr = s.stgAddr := rfl
@[simp] theorem State.endCommand_stgMode (s : State) (c : OutcomeCode) (p : StepCode) (k : Option BusClass) (d : Data) :
    (s.endCommand c p k d).stgMode = s.stgMode := rfl
@[simp] theorem State.endCommand_stgCal (s : State) (c : OutcomeCode) (p : StepCode) (k : Option BusClass) (d : Data) :
    (s.endCommand c p k d).stgCal = s.stgCal := rfl
@[simp] theorem State.endCommand_stgT (s : State) (c : OutcomeCode) (p : StepCode) (k : Option BusClass) (d : Data) :
    (s.endCommand c p k d).stgT = s.stgT := rfl
@[simp] theorem State.endCommand_stgP (s : State) (c : OutcomeCode) (p : StepCode) (k : Option BusClass) (d : Data) :
    (s.endCommand c p k d).stgP = s.stgP := rfl
@[simp] theorem State.endCommand_dp (s : State) (c : OutcomeCode) (p : StepCode) (k : Option BusClass) (d : Data) :
    (s.endCommand c p k d).dp = s.dp := rfl
@[simp] theorem State.endCommand_pend (s : State) (c : OutcomeCode) (p : StepCode) (k : Option BusClass) (d : Data) :
    (s.endCommand c p k d).pend = s.pend := rfl
@[simp] theorem State.endCommand_trace (s : State) (c : OutcomeCode) (p : StepCode) (k : Option BusClass) (d : Data) :
    (s.endCommand c p k d).trace = s.trace := rfl
@[simp] theorem State.endCommand_inputs (s : State) (c : OutcomeCode) (p : StepCode) (k : Option BusClass) (d : Data) :
    (s.endCommand c p k d).inputs = s.inputs := rfl
@[simp] theorem State.endCommand_responses (s : State) (c : OutcomeCode) (p : StepCode) (k : Option BusClass) (d : Data) :
    (s.endCommand c p k d).responses = s.responses ++ [⟨s.statusWord c p k, d, if c.wrapsBusError then s.lastBusError else none⟩] := rfl

/-! ### `raiseFail` -/

@[simp] theorem State.raiseFail_fsm (s : State) (c : OutcomeCode) (p : StepCode) (k : Option BusClass) (e : Option BusError) (f : Fsm) :
    (s.raiseFail c p k e f).fsm = f := rfl
@[simp] theorem State.raiseFail_devAddr (s : State) (c : OutcomeCode) (p : StepCode) (k : Option BusClass) (e : Option BusError) (f : Fsm) :
    (s.raiseFail c p k e f).devAddr = s.devAddr := rfl
@[simp] theorem State.raiseFail_oss (s : State) (c : OutcomeCode) (p : StepCode) (k : Option BusClass) (e : Option BusError) (f : Fsm) :
    (s.raiseFail c p k e f).oss = s.oss := rfl
@[simp] theorem State.raiseFail_cal (s : State) (c : OutcomeCode) (p : StepCode) (k : Option BusClass) (e : Option BusError) (f : Fsm) :
    (s.raiseFail c p k e f).cal = s.cal := rfl
@[simp] theorem State.raiseFail_rawT (s : State) (c : OutcomeCode) (p : StepCode) (k : Option BusClass) (e : Option BusError) (f : Fsm) :
    (s.raiseFail c p k e f).rawT = s.rawT := rfl
@[simp] theorem State.raiseFail_rawP (s : State) (c : OutcomeCode) (p : StepCode) (k : Option BusClass) (e : Option BusError) (f : Fsm) :
    (s.raiseFail c p k e f).rawP = s.rawP := rfl
@[simp] theorem State.raiseFail_tempTenths (s : State) (c : OutcomeCode) (p : StepCode) (k : Option BusClass) (e : Option BusError) (f : Fsm) :
    (s.raiseFail c p k e f).tempTenths = s.tempTenths := rfl
@[simp] theorem State.raiseFail_pressure (s : State) (c : OutcomeCode) (p : StepCode) (k : Option BusClass) (e : Option BusError) (f : Fsm) :
    (s.raiseFail c p k e f).pressure = s.pressure := rfl
@[simp] theorem State.raiseFail_calValid (s : State) (c : OutcomeCode) (p : StepCode) (k : Option BusClass) (e : Option BusError) (f : Fsm) :
    (s.raiseFail c p k e f).calValid = s.calValid := rfl
@[simp] theorem State.raiseFail_rdValid (s : State) (c : OutcomeCode) (p : StepCode) (k : Option BusClass) (e : Option BusError) (f : Fsm) :
    (s.raiseFail c p k e f).rdValid = s.rdValid := rfl
@[simp] theorem State.raiseFail_faultDz (s : State) (c : OutcomeCode) (p : StepCode) (k : Option BusClass) (e : Option BusError) (f : Fsm) :
    (s.raiseFail c p k e f).faultDz = s.faultDz := rfl
@[simp] theorem State.raiseFail_lastStatus (s : State) (c : OutcomeCode) (p : StepCode) (k : Option BusClass) (e : Option BusError) (f : Fsm) :
    (s.raiseFail c p k e f).lastStatus = s.statusWord c p k := rfl
@[simp] theorem State.raiseFail_lastBusError (s : State) (c : OutcomeCode) (p : StepCode) (k : Option BusClass) (e : Option BusError) (f : Fsm) :
    (s.raiseFail c p k e f).lastBusError = e := rfl
@[simp] theorem State.raiseFail_stgAddr (s : State) (c : OutcomeCode) (p : StepCode) (k : Option BusClass) (e : Option BusError) (f : Fsm) :
    (s.raiseFail c p k e f).stgAddr = s.stgAddr := rfl
@[simp] theorem State.raiseFail_stgMode (s : State) (c : OutcomeCode) (p : StepCode) (k : Option BusClass) (e : Option BusError) (f : Fsm) :
    (s.raiseFail c p k e f).stgMode = s.stgMode := rfl
@[simp] theorem State.raiseFail_stgCal (s : State) (c : OutcomeCode) (p : StepCode) (k : Option BusClass) (e : Option BusError) (f : Fsm) :
    (s.raiseFail c p k e f).stgCal = s.stgCal := rfl
@[simp] theorem State.raiseFail_stgT (s : State) (c : OutcomeCode) (p : StepCode) (k : Option BusClass) (e : Option BusError) (f : Fsm) :
    (s.raiseFail c p k e f).stgT = s.stgT := rfl
@[simp] theorem State.raiseFail_stgP (s : State) (c : OutcomeCode) (p : StepCode) (k : Option BusClass) (e : Option BusError) (f : Fsm) :
    (s.raiseFail c p k e f).stgP = s.stgP := rfl
@[simp] theorem State.raiseFail_dp (s : State) (c : OutcomeCode) (p : StepCode) (k : Option BusClass) (e : Option BusError) (f : Fsm) :
    (s.raiseFail c p k e f).dp = s.dp := rfl
@[simp] theorem State.raiseFail_pend (s : State) (c : OutcomeCode) (p : StepCode) (k : Option BusClass) (e : Option BusError) (f : Fsm) :
    (s.raiseFail c p k e f).pend = s.pend := rfl
@[simp] theorem State.raiseFail_trace (s : State) (c : OutcomeCode) (p : StepCode) (k : Option BusClass) (e : Option BusError) (f : Fsm) :
    (s.raiseFail c p k e f).trace = s.trace := rfl
@[simp] theorem State.raiseFail_inputs (s : State) (c : OutcomeCode) (p : StepCode) (k : Option BusClass) (e : Option BusError) (f : Fsm) :
    (s.raiseFail c p k e f).inputs = s.inputs := rfl
@[simp] theorem State.raiseFail_responses (s : State) (c : OutcomeCode) (p : StepCode) (k : Option BusClass) (e : Option BusError) (f : Fsm) :
    (s.raiseFail c p k e f).responses = s.responses ++ [⟨s.statusWord c p k, .none, if c.wrapsBusError then e else none⟩] := rfl

end Sys2Proof.Machine
end

