-- ==== Sys2Proof/Laws/Ops.lean ====
section
/-! SUPPORT. What each shared operation can do, said once: if it answers a next state, one of these cases holds. -/

namespace Sys2Proof.Machine

open Sys2Proof

/-! ### Error entry -/

theorem State.reject_eq (c : OutcomeCode) (s : State) :
    s.reject c = s.raiseFail c .noStep none s.lastBusError s.fsm := rfl

theorem State.abort_eq (c : OutcomeCode) (p : StepCode) (f : Fsm) (e : BusError) (s : State) :
    s.abort c p f e = s.raiseFail c p (some (busErrorClass e)) (some e) f := rfl

theorem State.compFault_eq (d : StepCode) (s : State) :
    s.compFault d = { s with faultDz := true }.raiseFail .compDivZero d none none .ready := rfl

/-! ### Entering a state -/

/-- A state that is already waiting, or whose FSM state issues nothing, is left alone. -/
theorem State.enter_of_settled {s : State} (h : s.pend ≠ none ∨ s.entryRequest = none) : s.enter = s := by
  unfold State.enter
  cases hp : s.pend <;> cases hr : s.entryRequest <;> simp_all

/-- A state with nothing in flight issues its FSM state's request. -/
theorem State.enter_of_request {s : State} {r : Request} (hp : s.pend = none) (hr : s.entryRequest = some r) :
    s.enter = s.issue r := by
  unfold State.enter; simp [hp, hr]

theorem State.enter_cases (s : State) :
    s.enter = s ∨ ∃ r, s.pend = none ∧ s.entryRequest = some r ∧ s.enter = s.issue r := by
  cases hp : s.pend with
  | some q => exact .inl (enter_of_settled (.inl (by simp [hp])))
  | none =>
    cases hr : s.entryRequest with
    | none => exact .inl (enter_of_settled (.inr hr))
    | some r => exact .inr ⟨r, rfl, rfl, enter_of_request hp hr⟩

/-! Entering a state changes only `pend` and `trace`. -/

@[simp] theorem State.enter_fsm (s : State) : s.enter.fsm = s.fsm := by
  unfold State.enter; split <;> rfl
@[simp] theorem State.enter_devAddr (s : State) : s.enter.devAddr = s.devAddr := by
  unfold State.enter; split <;> rfl
@[simp] theorem State.enter_oss (s : State) : s.enter.oss = s.oss := by
  unfold State.enter; split <;> rfl
@[simp] theorem State.enter_cal (s : State) : s.enter.cal = s.cal := by
  unfold State.enter; split <;> rfl
@[simp] theorem State.enter_rawT (s : State) : s.enter.rawT = s.rawT := by
  unfold State.enter; split <;> rfl
@[simp] theorem State.enter_rawP (s : State) : s.enter.rawP = s.rawP := by
  unfold State.enter; split <;> rfl
@[simp] theorem State.enter_tempTenths (s : State) : s.enter.tempTenths = s.tempTenths := by
  unfold State.enter; split <;> rfl
@[simp] theorem State.enter_pressure (s : State) : s.enter.pressure = s.pressure := by
  unfold State.enter; split <;> rfl
@[simp] theorem State.enter_calValid (s : State) : s.enter.calValid = s.calValid := by
  unfold State.enter; split <;> rfl
@[simp] theorem State.enter_rdValid (s : State) : s.enter.rdValid = s.rdValid := by
  unfold State.enter; split <;> rfl
@[simp] theorem State.enter_faultDz (s : State) : s.enter.faultDz = s.faultDz := by
  unfold State.enter; split <;> rfl
@[simp] theorem State.enter_lastStatus (s : State) : s.enter.lastStatus = s.lastStatus := by
  unfold State.enter; split <;> rfl
@[simp] theorem State.enter_lastBusError (s : State) : s.enter.lastBusError = s.lastBusError := by
  unfold State.enter; split <;> rfl
@[simp] theorem State.enter_stgAddr (s : State) : s.enter.stgAddr = s.stgAddr := by
  unfold State.enter; split <;> rfl
@[simp] theorem State.enter_stgMode (s : State) : s.enter.stgMode = s.stgMode := by
  unfold State.enter; split <;> rfl
@[simp] theorem State.enter_stgCal (s : State) : s.enter.stgCal = s.stgCal := by
  unfold State.enter; split <;> rfl
@[simp] theorem State.enter_stgT (s : State) : s.enter.stgT = s.stgT := by
  unfold State.enter; split <;> rfl
@[simp] theorem State.enter_stgP (s : State) : s.enter.stgP = s.stgP := by
  unfold State.enter; split <;> rfl
@[simp] theorem State.enter_dp (s : State) : s.enter.dp = s.dp := by
  unfold State.enter; split <;> rfl
@[simp] theorem State.enter_inputs (s : State) : s.enter.inputs = s.inputs := by
  unfold State.enter; split <;> rfl
@[simp] theorem State.enter_responses (s : State) : s.enter.responses = s.responses := by
  unfold State.enter; split <;> rfl

/-- Whatever state is entered, its request is pending then, if nothing was before. -/
theorem State.enter_pend {s : State} (h : s.pend = none ∨ s.pend = s.entryRequest) : s.enter.pend = s.entryRequest := by
  unfold State.enter
  rcases h with h | h
  · cases hr : s.entryRequest <;> simp [h]
  · cases hr : s.entryRequest <;> simp [h, hr]

/-! ### Host commands -/

theorem hostCommand_next {body : State → State} {s t : State} (h : hostCommand body s = .next t) :
    s.fsm.isStable = true ∧ t = body s := by
  unfold hostCommand at h
  split at h
  · exact ⟨‹_›, by simpa using h.symm⟩
  · cases h

theorem hostCommand_of_stable {body : State → State} {s : State} (h : s.fsm.isStable = true) :
    hostCommand body s = .next (body s) := by
  simp [hostCommand, h]

theorem hostCommand_of_transient {body : State → State} {s : State} (h : s.fsm.isStable = false) :
    hostCommand body s = .refused .commandOutstanding := by
  simp [hostCommand, h]

/-! ### Micro-operations -/

theorem awaitAnswer_next {req : Request} {onOk : List U8 → State → State} {onErr : BusError → State → State}
    {s t : State} (h : awaitAnswer req onOk onErr s = .next t) :
    (s.inputs = [] ∧ t = s) ∨
    ∃ a rest, s.inputs = a :: rest ∧
      ((∃ bytes ev, req.verdict a = .ok bytes ev ∧ t = onOk bytes (s.answered ev rest)) ∨
       (∃ e ev, req.verdict a = .err e ev ∧ t = onErr e (s.answered ev rest)) ∨
       (req.verdict a = .unrelated ∧ t = s.dropInput) ∨
       (req.verdict a = .hostAction ∧ t = s)) := by
  unfold awaitAnswer at h
  split at h
  · exact .inl ⟨‹_›, by simpa using h.symm⟩
  · rename_i a rest hs
    refine .inr ⟨a, rest, hs, ?_⟩
    split at h
    · exact .inl ⟨_, _, ‹_›, by simpa using h.symm⟩
    · exact .inr (.inl ⟨_, _, ‹_›, by simpa using h.symm⟩)
    · cases h
    · exact .inr (.inr (.inl ⟨‹_›, by simpa using h.symm⟩))
    · exact .inr (.inr (.inr ⟨‹_›, by simpa using h.symm⟩))

theorem microOp_next {i : Instr} {req : Request} {onOk : List U8 → State → State} {onErr : BusError → State → State}
    {s t : State} (h : microOp i req onOk onErr s = .next t) :
    s.fsm.microOp s.oss = some i ∧
    ((s.pend = none ∧ t = s.issue req) ∨
     (s.pend = some req ∧ awaitAnswer req onOk onErr s = .next t)) := by
  unfold microOp at h
  split at h
  · refine ⟨‹_›, ?_⟩
    split at h
    · exact .inl ⟨‹_›, by simpa using h.symm⟩
    · split at h
      · exact .inr ⟨‹_›, h⟩
      · cases h
  · cases h

theorem microOp_issue {i : Instr} {req : Request} {onOk : List U8 → State → State} {onErr : BusError → State → State}
    {s : State} (hi : s.fsm.microOp s.oss = some i) (hp : s.pend = none) :
    microOp i req onOk onErr s = .next (s.issue req) := by
  simp [microOp, hi, hp]

theorem microOp_answer {i : Instr} {req : Request} {onOk : List U8 → State → State} {onErr : BusError → State → State}
    {s : State} (hi : s.fsm.microOp s.oss = some i) (hp : s.pend = some req) :
    microOp i req onOk onErr s = awaitAnswer req onOk onErr s := by
  simp [microOp, hi, hp]

theorem awaitAnswer_ok {req : Request} {onOk : List U8 → State → State} {onErr : BusError → State → State}
    {s : State} {a : Input} {rest : List Input} {bytes : List U8} {ev : Event}
    (hs : s.inputs = a :: rest) (hv : req.verdict a = .ok bytes ev) :
    awaitAnswer req onOk onErr s = .next (onOk bytes (s.answered ev rest)) := by
  simp [awaitAnswer, hs, hv]

theorem awaitAnswer_err {req : Request} {onOk : List U8 → State → State} {onErr : BusError → State → State}
    {s : State} {a : Input} {rest : List Input} {e : BusError} {ev : Event}
    (hs : s.inputs = a :: rest) (hv : req.verdict a = .err e ev) :
    awaitAnswer req onOk onErr s = .next (onErr e (s.answered ev rest)) := by
  simp [awaitAnswer, hs, hv]

/-- A micro-operation whose request is answered `Ok`. -/
theorem microOp_ok {i : Instr} {req : Request} {onOk : List U8 → State → State} {onErr : BusError → State → State}
    {s : State} {a : Input} {rest : List Input} {bytes : List U8} {ev : Event} (hi : s.fsm.microOp s.oss = some i)
    (hp : s.pend = some req) (hs : s.inputs = a :: rest) (hv : req.verdict a = .ok bytes ev) :
    microOp i req onOk onErr s = .next (onOk bytes (s.answered ev rest)) :=
  (microOp_answer hi hp).trans (awaitAnswer_ok hs hv)

/-- A micro-operation whose request is answered `Err(e)`. -/
theorem microOp_err {i : Instr} {req : Request} {onOk : List U8 → State → State} {onErr : BusError → State → State}
    {s : State} {a : Input} {rest : List Input} {e : BusError} {ev : Event} (hi : s.fsm.microOp s.oss = some i)
    (hp : s.pend = some req) (hs : s.inputs = a :: rest) (hv : req.verdict a = .err e ev) :
    microOp i req onOk onErr s = .next (onErr e (s.answered ev rest)) :=
  (microOp_answer hi hp).trans (awaitAnswer_err hs hv)

/-- R155: the right number of bytes answers a read. -/
theorem verdict_read {addr reg : U8} {n : Nat} {bytes : List U8} (h : bytes.length = n) :
    Request.verdict (.bus (.read addr reg n)) (.readOk bytes) = .ok bytes (.rOk bytes) := by
  simp [Request.verdict, h]

/-- A block of 22 bytes is staged as it is. -/
theorem calBlock_toList (block : Vector U8 22) : calBlock block.toList = block := by
  unfold calBlock
  rw [dif_pos block.length_toList]
  rfl

/-- R156: a delay has no failure answer. -/
theorem verdict_delay_ne_err {ns : Nat} {a : Input} {e : BusError} {ev : Event} :
    Request.verdict (.delay ns) a ≠ .err e ev := by
  cases a <;> simp [Request.verdict]

/-! ### One step -/

/-- Everything a step that answers a next state can have done. -/
theorem step_next {s t : State} (h : step s = .next t) :
    (∃ u, s.fetch = .reset u ∧ t = u.resetAction) ∨ s.fetch = .idle t ∨
    ∃ i u v, s.fetch = .run i u ∧ exec i u = .next v ∧ t = v.enter := by
  unfold step at h
  split at h
  · exact .inl ⟨_, ‹_›, by simpa using h.symm⟩
  · rename_i u hu
    have : u = t := by simpa using h
    exact .inr (.inl (this ▸ hu))
  · rename_i i u hu
    cases hx : exec i u with
    | next v => rw [hx] at h; exact .inr (.inr ⟨i, u, v, hu, hx, by simpa [enterOutcome] using h.symm⟩)
    | fault r => rw [hx] at h; cases h
    | refused r => rw [hx] at h; cases h

/-- What `fetch` found, read back: a reset, nothing to do in a stable state, a command word, or the micro-operation of a
transient state. -/
theorem fetch_reset {s u : State} (h : s.fetch = .reset u) :
    ∃ rest, s.inputs = .reset :: rest ∧ u = { s with inputs := rest } := by
  unfold State.fetch at h
  split at h
  · exact ⟨_, ‹_›, by simpa using h.symm⟩
  · split at h <;> cases h
  · split at h <;> cases h

theorem fetch_idle {s t : State} (h : s.fetch = .idle t) :
    s.fsm.isStable = true ∧ ¬ s.resetNext ∧ t = s.dropInput := by
  unfold State.fetch at h
  split at h
  · cases h
  · split at h <;> cases h
  · rename_i hr _
    split at h
    · cases h
    · rename_i hm
      refine ⟨?_, ?_, by simpa using h.symm⟩
      · cases hf : s.fsm <;> simp [hf, Fsm.microOp, Fsm.isStable] at hm ⊢
      · intro hh
        cases hi : s.inputs with
        | nil => simp [State.resetNext, hi] at hh
        | cons a rest =>
          simp [State.resetNext, hi] at hh
          exact hr rest (by rw [hi, hh])

theorem fetch_run {s u : State} {i : Instr} (h : s.fetch = .run i u) :
    (∃ w rest, s.inputs = .command w :: rest ∧ s.fsm ≠ .sComp ∧ i = decodeHost w ∧ u = { s with inputs := rest }) ∨
    (u = s ∧ s.fsm.microOp s.oss = some i ∧ ¬ s.resetNext) := by
  unfold State.fetch at h
  split at h
  · cases h
  · rename_i w rest hi
    split at h
    · rename_i hc
      injection h with h1 h2
      exact .inr ⟨h2.symm, by simp [hc, Fsm.microOp, h1], by simp [State.resetNext, hi]⟩
    · injection h with h1 h2
      exact .inl ⟨w, rest, hi, ‹_›, h1.symm, h2.symm⟩
  · rename_i hr _
    split at h
    · rename_i hm
      injection h with h1 h2
      refine .inr ⟨h2.symm, by rw [hm, h1], ?_⟩
      intro hh
      cases hi : s.inputs with
      | nil => simp [State.resetNext, hi] at hh
      | cons a rest =>
        simp [State.resetNext, hi] at hh
        exact hr rest (by rw [hi, hh])
    · cases h

end Sys2Proof.Machine
end

