-- ==== Sys2Proof/Laws/PerInstr.lean ====
section
/-! SUPPORT. The family EncodingRoundTrip, one lemma for each constructor of Instr. -/

namespace Sys2Proof.Laws.EncodingRoundTrip

open Sys2Proof

/-- The decoder reads a well-formed instruction's image as that instruction. -/
def Statement (i : Instr) : Prop := i.wellFormed = true → decode (encode i) = .ok i

theorem init (a m : U8) : Statement (.init a m) := by
  obtain ⟨h0, h8, h16, h24⟩ := initWord_fields a m
  intro _
  show Except.ok (decodeHost ((0 : U8) ++ m ++ a ++ (0x01 : U8))) = _
  unfold decodeHost
  simp only [h0, h8, h16, h24, and_self, if_true]

theorem measure : Statement .measure := by intro _; decide
theorem getTemp : Statement .getTemp := by intro _; decide
theorem getPress : Statement .getPress := by intro _; decide
theorem getCal : Statement .getCal := by intro _; decide
theorem getStatus : Statement .getStatus := by intro _; decide

theorem illegal (w : U32) : Statement (.illegal w) := by
  intro h
  have h1 := mt (takes_init w).mpr
  have row (c : U32) := mt (takes_full c w).mpr
  simp only [Instr.wellFormed, isCommandWord, hostRows, List.any_cons, List.any_nil, Bool.or_false, Bool.not_eq_true',
    Bool.or_eq_false_iff] at h
  obtain ⟨a1, a2, a3, a4, a5, a6⟩ := h
  have slices (op : U8) (hw : HostRow.takes ⟨op.setWidth 32, 0xFFFFFFFF⟩ w = false) :
      ¬ (slice w 0 8 = op ∧ slice w 8 24 = 0) := by
    rw [word_of_slices, ← takes_full, hw]
    exact Bool.false_ne_true
  show Except.ok (decodeHost w) = _
  unfold decodeHost
  simp only [h1 (by rw [a1]; exact Bool.false_ne_true), slices 0x02 a2, slices 0x03 a3, slices 0x04 a4, slices 0x05 a5,
    slices 0x06 a6, if_false]

theorem rdCal : Statement .rdCal := by intro _; decide
theorem wrTcmd : Statement .wrTcmd := by intro _; decide
theorem dlyT (mm : U2) : Statement (.dlyT mm) := by intro _; revert mm; decide
theorem rdT : Statement .rdT := by intro _; decide
theorem wrPcmd (mm : U2) : Statement (.wrPcmd mm) := by intro _; revert mm; decide
theorem dlyP (mm : U2) : Statement (.dlyP mm) := by intro _; revert mm; decide
theorem rdP : Statement .rdP := by intro _; decide
theorem comp : Statement .comp := by intro _; decide

end Sys2Proof.Laws.EncodingRoundTrip
end

