-- ==== Sys2Proof/Laws/Step.lean ====
section
/-! SUPPORT. One step and runs of steps: what a step can have done, said once for all instructions. -/

namespace Sys2Proof.Machine

open Sys2Proof

/-- One more step of a run. -/
theorem run_succ {k : Nat} {s t : State} (h : step s = .next t) : core.run (k + 1) s = core.run k t := by
  have h' : core.step s = .next t := h
  rw [Host.Core.run.eq_2 core s k, h']

theorem run_zero (s : State) : core.run 0 s = .next s := rfl

/-- How a host command changes a stable state whose command word is used up. -/
inductive CommandCase (s : State) : State → Prop where
  | initStarts (a m : U8) (hc : s.calValid = false) (hm : m.toNat ≤ 3) :
      CommandCase s { s with stgAddr := a, stgMode := m.setWidth 2, fsm := .sRdCal }
  | measureStarts (hc : s.calValid = true) : CommandCase s { s with fsm := .sWrTcmd }
  | rejects (c : OutcomeCode)
      (hc : c = .alreadyInitialized ∨ c = .modeInvalid ∨ c = .notCalibrated ∨ c = .noReading ∨ c = .illegalCommand) :
      CommandCase s (s.reject c)
  | answers (d : Data) : CommandCase s (s.endCommand .ok .noStep none d)
  | status : CommandCase s (s.respond s.lastStatus .none none)

/-- Every host command falls under `CommandCase`. -/
theorem exec_decodeHost_next {s t : State} {w : U32} (h : exec (decodeHost w) s = .next t) :
    s.fsm.isStable = true ∧ CommandCase s t := by
  have hh : ∀ body : State → State, (∀ u, CommandCase u (body u)) → hostCommand body s = .next t →
      s.fsm.isStable = true ∧ CommandCase s t := by
    intro body hb hx
    obtain ⟨hs, rfl⟩ := hostCommand_next hx
    exact ⟨hs, hb s⟩
  cases hd : decodeHost w with
  | init a m =>
    rw [hd] at h
    refine hh (State.init a m) (fun u => ?_) h
    unfold State.init
    split
    · exact .rejects _ (by simp)
    · split
      · exact .rejects _ (by simp)
      · exact .initStarts a m (by simp_all) (by omega)
  | measure =>
    rw [hd] at h
    refine hh State.measure (fun u => ?_) h
    unfold State.measure
    split
    · exact .measureStarts (by assumption)
    · exact .rejects _ (by simp)
  | getTemp =>
    rw [hd] at h
    refine hh State.getTemp (fun u => ?_) h
    unfold State.getTemp
    split
    · exact .answers _
    · exact .rejects _ (by simp)
  | getPress =>
    rw [hd] at h
    refine hh State.getPress (fun u => ?_) h
    unfold State.getPress
    split
    · exact .answers _
    · exact .rejects _ (by simp)
  | getCal =>
    rw [hd] at h
    refine hh State.getCal (fun u => ?_) h
    unfold State.getCal
    split
    · exact .answers _
    · exact .rejects _ (by simp)
  | getStatus => rw [hd] at h; exact hh State.getStatus (fun u => .status) h
  | illegal v => rw [hd] at h; exact hh _ (fun u => .rejects _ (by simp)) h
  | _ =>
    exfalso
    unfold decodeHost at hd
    simp only at hd
    repeat' split at hd
    all_goals cases hd

/-- How a micro-operation changes the state of the FSM that issues it. -/
inductive MicroOpCase (s : State) : State → Prop where
  | issues (r : Request) (hp : s.pend = none) (hr : s.entryRequest = some r) : MicroOpCase s (s.issue r)
  /-- nothing arrived that matters to the request -/
  | holds (hp : s.pend.isSome = true) (hr : s.pend = s.entryRequest) (inputs : List Input) :
      MicroOpCase s { s with inputs := inputs }
  | initCommits (block : List U8) (rest : List Input) (hf : s.fsm = .sRdCal) :
      MicroOpCase s { s.answered (.rOk block) rest with stgCal := calBlock block }.commitInit
  | initAborts (e : BusError) (rest : List Input) (hf : s.fsm = .sRdCal) :
      MicroOpCase s ((s.answered (.rErr e) rest).abort .initBusError .rdCal .uncal e)
  /-- WR_TCMD, DLY_T, WR_PCMD and DLY_P -/
  | moves (ev : Event) (rest : List Input) (f : Fsm)
      (hf : s.fsm = .sWrTcmd ∧ f = .sDlyT ∧ ev = .wOk ∨ s.fsm = .sDlyT ∧ f = .sRdT ∧ ev = .dDone ∨
        s.fsm = .sWrPcmd ∧ f = .sDlyP ∧ ev = .wOk ∨ s.fsm = .sDlyP ∧ f = .sRdP ∧ ev = .dDone) :
      MicroOpCase s ((s.answered ev rest).goto f)
  | stagesT (b : List U8) (rest : List Input) (hf : s.fsm = .sRdT) :
      MicroOpCase s ({ s.answered (.rOk b) rest with stgT := rawTOf b }.goto .sWrPcmd)
  | stagesP (b : List U8) (rest : List Input) (hf : s.fsm = .sRdP) :
      MicroOpCase s ({ s.answered (.rOk b) rest with stgP := rawPOf b }.goto .sComp)
  | measureAborts (p : StepCode) (e : BusError) (ev : Event) (rest : List Input)
      (hf : s.fsm = .sWrTcmd ∧ p = .wrTcmd ∧ ev = .wErr e ∨ s.fsm = .sRdT ∧ p = .rdT ∧ ev = .rErr e ∨
        s.fsm = .sWrPcmd ∧ p = .wrPcmd ∧ ev = .wErr e ∨ s.fsm = .sRdP ∧ p = .rdP ∧ ev = .rErr e) :
      MicroOpCase s ((s.answered ev rest).abort .measBusError p .ready e)
  | measureCommits (dp : Datapath) (hf : s.fsm = .sComp) (hd : s.compensation = .done dp) :
      MicroOpCase s { s with dp := dp }.commitMeasure
  | compFaults (d : StepCode) (hf : s.fsm = .sComp) (hd : s.compensation = .divByZero d) :
      MicroOpCase s (s.compFault d)

/-- What the verdict of a write, a read or a delay can be. -/
theorem verdict_write_ok {addr reg : U8} {p : List U8} {a : Input} {b : List U8} {ev : Event}
    (h : Request.verdict (.bus (.write addr reg p)) a = .ok b ev) : ev = .wOk := by
  cases a <;> simp [Request.verdict] at h; exact h.2.symm

theorem verdict_write_err {addr reg : U8} {p : List U8} {a : Input} {e : BusError} {ev : Event}
    (h : Request.verdict (.bus (.write addr reg p)) a = .err e ev) : ev = .wErr e := by
  cases a <;> simp [Request.verdict] at h; rw [← h.1, h.2]

theorem verdict_read_ok {addr reg : U8} {n : Nat} {a : Input} {b : List U8} {ev : Event}
    (h : Request.verdict (.bus (.read addr reg n)) a = .ok b ev) : ev = .rOk b ∧ b.length = n := by
  cases a <;> simp [Request.verdict] at h
  split at h
  · cases h; exact ⟨rfl, ‹_›⟩
  · cases h

theorem verdict_read_err {addr reg : U8} {n : Nat} {a : Input} {e : BusError} {ev : Event}
    (h : Request.verdict (.bus (.read addr reg n)) a = .err e ev) : ev = .rErr e := by
  cases a <;> simp [Request.verdict] at h
  · split at h <;> cases h
  · rw [← h.1, h.2]

theorem verdict_delay_ok {ns : Nat} {a : Input} {b : List U8} {ev : Event}
    (h : Request.verdict (.delay ns) a = .ok b ev) : ev = .dDone := by
  cases a <;> simp [Request.verdict] at h; exact h.2.symm

/-- A micro-operation with a request issues it, holds, or continues with an answer. -/
theorem microOp_next_cases {i : Instr} {req : Request} {onOk : List U8 → State → State} {onErr : BusError → State → State}
    {s t : State} (h : microOp i req onOk onErr s = .next t) (hr : s.entryRequest = some req) :
    MicroOpCase s t ∨
    (∃ a rest bytes ev, req.verdict a = .ok bytes ev ∧ t = onOk bytes (s.answered ev rest)) ∨
    (∃ a rest e ev, req.verdict a = .err e ev ∧ t = onErr e (s.answered ev rest)) := by
  obtain ⟨-, ⟨hp, rfl⟩ | ⟨hp, ha⟩⟩ := microOp_next h
  · exact .inl (.issues req hp hr)
  · have hs : s.pend.isSome = true := by simp [hp]
    have hq : s.pend = s.entryRequest := by rw [hp, hr]
    rcases awaitAnswer_next ha with ⟨-, rfl⟩ | ⟨a, rest, -, ⟨b, ev, hv, rfl⟩ | ⟨e, ev, hv, rfl⟩ | ⟨-, rfl⟩ | ⟨-, rfl⟩⟩
    · exact .inl (.holds hs hq t.inputs)
    · exact .inr (.inl ⟨a, rest, b, ev, hv, rfl⟩)
    · exact .inr (.inr ⟨a, rest, e, ev, hv, rfl⟩)
    · exact .inl (.holds hs hq s.inputs.tail)
    · exact .inl (.holds hs hq t.inputs)

/-- Every micro-operation falls under `MicroOpCase`. -/
theorem exec_microOp_next {s t : State} {i : Instr} (hm : s.fsm.microOp s.oss = some i) (h : exec i s = .next t) :
    MicroOpCase s t := by
  cases hf : s.fsm <;> simp only [hf, Fsm.microOp, Option.some.injEq, reduceCtorEq] at hm <;> subst hm
  case sRdCal =>
    rcases microOp_next_cases h (by simp [State.entryRequest, hf]) with
      h | ⟨a, rest, b, ev, hv, rfl⟩ | ⟨a, rest, e, ev, hv, rfl⟩
    · exact h
    · obtain ⟨rfl, -⟩ := verdict_read_ok hv; exact .initCommits b rest hf
    · obtain rfl := verdict_read_err hv; exact .initAborts e rest hf
  case sWrTcmd =>
    rcases microOp_next_cases h (by simp [State.entryRequest, hf]) with
      h | ⟨a, rest, b, ev, hv, rfl⟩ | ⟨a, rest, e, ev, hv, rfl⟩
    · exact h
    · obtain rfl := verdict_write_ok hv; exact .moves _ rest _ (by simp [hf])
    · obtain rfl := verdict_write_err hv; exact .measureAborts _ e _ rest (by simp [hf])
  case sDlyT =>
    rcases microOp_next_cases h (by simp [State.entryRequest, hf]) with
      h | ⟨a, rest, b, ev, hv, rfl⟩ | ⟨a, rest, e, ev, hv, rfl⟩
    · exact h
    · obtain rfl := verdict_delay_ok hv; exact .moves _ rest _ (by simp [hf])
    · exact absurd hv verdict_delay_ne_err
  case sRdT =>
    rcases microOp_next_cases h (by simp [State.entryRequest, hf]) with
      h | ⟨a, rest, b, ev, hv, rfl⟩ | ⟨a, rest, e, ev, hv, rfl⟩
    · exact h
    · obtain ⟨rfl, -⟩ := verdict_read_ok hv; exact .stagesT b rest hf
    · obtain rfl := verdict_read_err hv; exact .measureAborts _ e _ rest (by simp [hf])
  case sWrPcmd =>
    rcases microOp_next_cases h (by simp [State.entryRequest, hf]) with
      h | ⟨a, rest, b, ev, hv, rfl⟩ | ⟨a, rest, e, ev, hv, rfl⟩
    · exact h
    · obtain rfl := verdict_write_ok hv; exact .moves _ rest _ (by simp [hf])
    · obtain rfl := verdict_write_err hv; exact .measureAborts _ e _ rest (by simp [hf])
  case sDlyP =>
    rcases microOp_next_cases h (by simp [State.entryRequest, hf]) with
      h | ⟨a, rest, b, ev, hv, rfl⟩ | ⟨a, rest, e, ev, hv, rfl⟩
    · exact h
    · obtain rfl := verdict_delay_ok hv; exact .moves _ rest _ (by simp [hf])
    · exact absurd hv verdict_delay_ne_err
  case sRdP =>
    rcases microOp_next_cases h (by simp [State.entryRequest, hf]) with
      h | ⟨a, rest, b, ev, hv, rfl⟩ | ⟨a, rest, e, ev, hv, rfl⟩
    · exact h
    · obtain ⟨rfl, -⟩ := verdict_read_ok hv; exact .stagesP b rest hf
    · obtain rfl := verdict_read_err hv; exact .measureAborts _ e _ rest (by simp [hf])
  case sComp =>
    have : t = s.comp := by
      simp only [exec, execComp] at h
      split at h
      · simpa using h.symm
      · cases h
    subst this
    unfold State.comp
    split
    · exact .measureCommits _ hf ‹_›
    · exact .compFaults _ hf ‹_›

/-- Everything a step can have done. -/
theorem step_cases {s t : State} (h : step s = .next t) :
    (∃ rest, s.inputs = .reset :: rest ∧ t = State.resetAction { s with inputs := rest }) ∨
    (s.fsm.isStable = true ∧ (∀ w, s.inputs.head? ≠ some (.command w)) ∧ t = s.dropInput) ∨
    (∃ w rest v, s.inputs = .command w :: rest ∧ s.fsm.isStable = true ∧
      CommandCase { s with inputs := rest } v ∧ t = v.enter) ∨
    (s.fsm.isStable = false ∧ ∃ v, MicroOpCase s v ∧ t = v.enter) := by
  rcases step_next h with ⟨u, hu, rfl⟩ | hi | ⟨i, u, v, hu, hx, rfl⟩
  · obtain ⟨rest, hr, rfl⟩ := fetch_reset hu
    exact .inl ⟨rest, hr, rfl⟩
  · obtain ⟨hs, -, rfl⟩ := fetch_idle hi
    refine .inr (.inl ⟨hs, fun w hw => ?_, rfl⟩)
    cases hin : s.inputs with
    | nil => simp [hin] at hw
    | cons a rest =>
      simp only [hin, List.head?_cons, Option.some.injEq] at hw
      subst hw
      simp only [State.fetch, hin] at hi
      split at hi <;> cases hi
  · rcases fetch_run hu with ⟨w, rest, hin, -, rfl, rfl⟩ | ⟨rfl, hm, -⟩
    · obtain ⟨hs, hc⟩ := exec_decodeHost_next hx
      exact .inr (.inr (.inl ⟨w, rest, v, hin, hs, hc, rfl⟩))
    · refine .inr (.inr (.inr ⟨?_, v, exec_microOp_next hm hx, rfl⟩))
      cases hf : u.fsm <;> simp [hf, Fsm.microOp, Fsm.isStable] at hm ⊢

/-- A micro-operation uses up inputs from the front, if any. -/
theorem microOp_inputs_suffix {i : Instr} {req : Request} {onOk : List U8 → State → State}
    {onErr : BusError → State → State} {s t : State} (h : microOp i req onOk onErr s = .next t)
    (hok : ∀ b u, (onOk b u).inputs = u.inputs) (herr : ∀ e u, (onErr e u).inputs = u.inputs) :
    t.inputs <:+ s.inputs := by
  obtain ⟨-, ⟨-, rfl⟩ | ⟨-, ha⟩⟩ := microOp_next h
  · exact List.suffix_refl _
  · rcases awaitAnswer_next ha with ⟨-, rfl⟩ | ⟨a, rest, hin, ⟨b, ev, -, rfl⟩ | ⟨e, ev, -, rfl⟩ | ⟨-, rfl⟩ | ⟨-, rfl⟩⟩
    · exact List.suffix_refl _
    · rw [hok, hin]; exact List.suffix_cons _ _
    · rw [herr, hin]; exact List.suffix_cons _ _
    · exact List.tail_suffix _
    · exact List.suffix_refl _

/-- A step uses up inputs from the front, if any. -/
theorem step_inputs_suffix {s t : State} (h : step s = .next t) : t.inputs <:+ s.inputs := by
  rcases step_next h with ⟨u, hu, rfl⟩ | hi | ⟨i, u, v, hu, hx, rfl⟩
  · obtain ⟨rest, hr, rfl⟩ := fetch_reset hu
    exact ⟨[.reset], by simp [State.resetAction, hr]⟩
  · obtain ⟨-, -, rfl⟩ := fetch_idle hi
    exact List.tail_suffix _
  · rw [State.enter_inputs]
    rcases fetch_run hu with ⟨w, rest, hin, -, rfl, rfl⟩ | ⟨rfl, hm, -⟩
    · obtain ⟨-, hc⟩ := exec_decodeHost_next hx
      have : v.inputs = rest := by cases hc <;> rfl
      rw [this, hin]; exact List.suffix_cons _ _
    · cases hf : u.fsm <;> simp only [hf, Fsm.microOp, Option.some.injEq, reduceCtorEq] at hm <;> subst hm
      case sComp =>
        simp only [exec, execComp] at hx
        split at hx
        · cases hx
          have : u.comp.inputs = u.inputs := by unfold State.comp; split <;> rfl
          simp [this]
        · cases hx
      all_goals exact microOp_inputs_suffix hx (fun _ _ => rfl) (fun _ _ => rfl)

end Sys2Proof.Machine
end

