-- ==== Sys2Proof/Laws/Run.lean ====
section
/-! SUPPORT. What one step of a run and several can do. -/

namespace Sys2Proof.Machine

open Sys2Proof

@[simp] theorem Run.begin_state (s : State) : (Run.begin s).state = s := rfl
@[simp] theorem Run.begin_commands (s : State) : (Run.begin s).commands = [] := rfl
@[simp] theorem Run.begin_responses (s : State) : (Run.begin s).responses = [] := rfl
@[simp] theorem Run.begin_outstanding (s : State) : (Run.begin s).outstanding = false := rfl

@[simp] theorem Run.after_state (r : Run) (t : State) : (r.after t).state = t := rfl
@[simp] theorem Run.after_commands (r : Run) (t : State) :
    (r.after t).commands = r.commands ++ r.state.takenCommand := rfl
@[simp] theorem Run.after_responses (r : Run) (t : State) :
    (r.after t).responses = r.responses ++ r.state.returnedBy t := rfl
@[simp] theorem Run.after_outstanding (r : Run) (t : State) : (r.after t).outstanding =
    ((r.state.returnedBy t).isEmpty && (r.outstanding || !r.state.takenCommand.isEmpty)) := rfl

/-- A step of a run is a step of the machine. -/
theorem Run.next_some {r r' : Run} : r.next = some r' ↔ ∃ t, step r.state = .next t ∧ r' = r.after t := by
  unfold Run.next
  cases step r.state <;> simp [eq_comm]

theorem Run.steps_zero (r : Run) : r.steps 0 = some r := rfl

theorem Run.steps_succ {k : Nat} {r r' : Run} :
    r.steps (k + 1) = some r' ↔ ∃ q, r.next = some q ∧ q.steps k = some r' := by
  rw [Run.steps]
  cases r.next <;> simp

/-- What holds of a run and is kept by each of its steps holds after any number of steps. -/
theorem Run.steps_induction {P : Run → Prop} (h : ∀ r t, P r → step r.state = .next t → P (r.after t)) :
    ∀ {k : Nat} {r r' : Run}, P r → r.steps k = some r' → P r'
  | 0, _, _, hp, hr => by cases hr; exact hp
  | k + 1, _, _, hp, hr => by
    obtain ⟨_, hn, hr⟩ := steps_succ.mp hr
    obtain ⟨t, ht, rfl⟩ := next_some.mp hn
    exact steps_induction h (h _ t hp ht) hr

/-- The command a step takes is the word next in the inputs, outside `S_COMP`. -/
theorem State.takenCommand_eq {s : State} {w : U32} {rest : List Input} (hi : s.inputs = .command w :: rest)
    (hf : s.fsm ≠ .sComp) : s.takenCommand = [w] := by
  simp [takenCommand, hi, hf]

theorem State.takenCommand_nil {s : State} (h : s.fsm = .sComp ∨ ∀ w, s.inputs.head? ≠ some (.command w)) :
    s.takenCommand = [] := by
  unfold takenCommand
  split
  · rename_i w rest hi
    rcases h with h | h
    · simp [h]
    · exact absurd (by simp [hi]) (h w)
  · rfl

theorem State.returnedBy_none {s t : State} (h : t.responses = s.responses) : s.returnedBy t = [] := by
  simp [returnedBy, h]

theorem State.returnedBy_append {s t : State} {rs : List Response} (h : t.responses = s.responses ++ rs) :
    s.returnedBy t = rs := by
  simp [returnedBy, h]

end Sys2Proof.Machine
end

