-- ==== Sys2Proof/Tests/Slice0.lean ====
section
/-! SUPPORT. The model's own tests: ill-formed terms, words written out from the spec's encodings, single steps with results
from 95_test_vectors.md, and for each statement that has hypotheses a state and operands that meet them. -/

namespace Sys2Proof.Tests

open Sys2Proof Sys2Proof.Machine Sys2Proof.Safety

/-! ### Helpers -/

/-- The 22 bytes of 95_test_vectors.md section 1.2. -/
def block : Vector U8 22 :=
  #v[0x01, 0x98, 0xFF, 0xB8, 0xC7, 0xD1, 0x7F, 0xE5, 0x7F, 0xF5, 0x5A, 0x71, 0x18, 0x2E, 0x00, 0x04, 0x80, 0x00, 0xDD,
    0xF9, 0x0B, 0x34]

/-- After program P1's INIT, in a mode. -/
def ready (oss : U2) : State :=
  { State.reset with
    fsm := .ready, devAddr := 0x77, oss := oss, cal := decodeCal block, calValid := true, lastStatus := 0x00010000 }

/-- After program P1's MEASURE. -/
def measured : State :=
  { ready 0 with
    rdValid := true, rawT := ⟨0x6C, 0xFA⟩, rawP := ⟨0x5D, 0x23, 0x00⟩, tempTenths := 150, pressure := 69964
    lastStatus := 0x00030000 }

/-- A calibrated block in an FSM state, with that state's request in flight and something to come. -/
def waiting (f : Fsm) (oss : U2) (inputs : List Input) : State :=
  let s : State := { ready oss with fsm := f, inputs := inputs }
  { s with pend := s.entryRequest }

/-- An INIT in flight. -/
def initializing (inputs : List Input) : State :=
  { State.reset with
    fsm := .sRdCal, stgAddr := 0x77, stgMode := 1, pend := some (.bus (.read 0x77 0xAA 22)), inputs := inputs }

/-- `S_COMP` with the staged bytes of a raw temperature, UP = 23843. -/
def computing (b0 b1 : U8) : State := { ready 0 with fsm := .sComp, stgT := ⟨b0, b1⟩, stgP := ⟨0x5D, 0x23, 0x00⟩ }

/-- A bus error of a class. -/
def err (k : BusClass) : BusError := ⟨k, 0⟩

/-- Look at the next state of an outcome. -/
def after {α : Type} (o : Host.Outcome State Fault Refusal) (look : State → α) : Option α :=
  match o with
  | .next t => some (look t)
  | .fault _ => none
  | .refused _ => none

/-- The refusal of an outcome. -/
def refusal (o : Host.Outcome State Fault Refusal) : Option Refusal :=
  match o with
  | .next _ => none
  | .fault _ => none
  | .refused r => some r

/-- A look at the last response. -/
def lastResponse (t : State) : Option Response := t.responses.getLast?

/-! ### Ill-formed terms -/

theorem test_wellFormed_refuses_illegal_measure : (Instr.illegal 0x00000002).wellFormed = false := by decide
theorem test_wellFormed_refuses_illegal_init : (Instr.illegal 0x00047701).wellFormed = false := by decide
theorem test_wellFormed_refuses_illegal_status : (Instr.illegal 0x00000006).wellFormed = false := by decide
theorem test_wellFormed_takes_illegal_word : (Instr.illegal 0x01007701).wellFormed = true := by decide
theorem test_wellFormed_takes_init_of_any_mode : (Instr.init 0xFF 0xFF).wellFormed = true := by decide

/-! ### Decoding: words written out from 30_encoding.md (R72 to R75, R79, R80, R86) -/

theorem test_decode_init : decode (.host 0b00000000_00000011_01110111_00000001) = .ok (.init 0x77 3) := by decide
theorem test_decode_measure : decode (.host 0b00000000_00000000_00000000_00000010) = .ok .measure := by decide
theorem test_decode_getTemp : decode (.host 0b00000000_00000000_00000000_00000011) = .ok .getTemp := by decide
theorem test_decode_getPress : decode (.host 0b00000000_00000000_00000000_00000100) = .ok .getPress := by decide
theorem test_decode_getCal : decode (.host 0b00000000_00000000_00000000_00000101) = .ok .getCal := by decide
theorem test_decode_getStatus : decode (.host 0b00000000_00000000_00000000_00000110) = .ok .getStatus := by decide
theorem test_decode_illegal :
    decode (.host 0b00000001_00000000_01110111_00000001) = .ok (.illegal 0x01007701) := by decide
theorem test_decode_rdCal : decode (.busRead 0b10101010 22) = .ok .rdCal := by decide
theorem test_decode_wrTcmd : decode (.busWrite 0b11110100 0b00101110) = .ok .wrTcmd := by decide
theorem test_decode_dlyT : decode (.delay 3 0b11) = .ok (.dlyT 3) := by decide
theorem test_decode_rdT : decode (.busRead 0b11110110 2) = .ok .rdT := by decide
theorem test_decode_wrPcmd : decode (.busWrite 0b11110100 0b01110100) = .ok (.wrPcmd 1) := by decide
theorem test_decode_dlyP : decode (.delay 6 0b10) = .ok (.dlyP 2) := by decide
theorem test_decode_rdP : decode (.busRead 0b11110110 3) = .ok .rdP := by decide
theorem test_decode_comp : decode (.internal 0b1001) = .ok .comp := by decide

theorem test_decode_rejects_write : decode (.busWrite 0xF4 0x2F) = .error (.noSuchWrite 0xF4 0x2F) := by decide
theorem test_decode_rejects_register : decode (.busWrite 0xF5 0x2E) = .error (.noSuchWrite 0xF5 0x2E) := by decide
theorem test_decode_rejects_count : decode (.busRead 0xF6 1) = .error (.noSuchRead 0xF6 1) := by decide
theorem test_decode_rejects_delay : decode (.delay 5 0) = .error (.noSuchDelay 5) := by decide
theorem test_decode_rejects_internal : decode (.internal 8) = .error (.noSuchInternal 8) := by decide

theorem test_tableWord_host : decodeTableWord 32 0x00027701 = some (.init 0x77 2) := by decide
theorem test_tableWord_wrPcmd : decodeTableWord 16 0xF4B4 = some (.wrPcmd 2) := by decide
theorem test_tableWord_none : decodeTableWord 16 0xF42F = none := by decide

/-- 30_encoding.md R90's syntax, with program P4's lines of 95_test_vectors.md. -/
theorem test_assemble_program :
    assembleText ["INIT 0x77, 4        ; 0x00047701".toList, "; a comment".toList, "".toList, "INIT 119,1".toList,
      ".word 0x01007701".toList, "GET_STATUS".toList] =
      some [0x00047701, 0x00017701, 0x01007701, 0x00000006] := by decide +kernel
theorem test_assemble_rejects : assembleText ["INIT 0x77, 256".toList] = none := by decide +kernel

/-! ### Operand forms and the status word -/

/-- 95_test_vectors.md: the words `0x00033702` (P3) and `0x00050807` (F1). -/
theorem test_statusWord_bus : statusWord .measBusError .rdP (some .shortTransfer) true true false = 0x00033702 := by
  decide
theorem test_statusWord_fault : statusWord .compDivZero .compT none true false true = 0x00050807 := by decide
/-- 42_compensation.md R178's examples. -/
theorem test_rawPressCount : rawPressCount ⟨0x5D, 0x23, 0xFF⟩ 0 = 23843 ∧ rawPressCount ⟨0x5D, 0x23, 0x00⟩ 3 = 190744 ∧
    rawPressCount ⟨0xFF, 0xFF, 0xFF⟩ 3 = 524287 := by decide
/-- R177's example, and R76's rows for modes 0 and 3. -/
theorem test_rawTempCount : rawTempCount ⟨0x6C, 0xFA⟩ = 27898 := by decide
theorem test_modeTable : modeTable 3 = ⟨0xF4, 26000000, 26000000, 5, 6250⟩ := by decide

/-! ### Host commands: the responses of 95_test_vectors.md -/

theorem test_init_starts :
    after (step { State.reset with inputs := [.command 0x00037701] })
      (fun t => (t.fsm, t.stgMode, t.calValid, t.trace)) =
      some (.sRdCal, 3, false, [.r 0x77 0xAA 22]) := by decide
theorem test_init_rejects_mode :
    after (step { State.reset with inputs := [.command 0x00047701] }) (fun t => (t.fsm, lastResponse t)) =
      some (.uncal, some ⟨0x00000003, .none, none⟩) := by decide
theorem test_measure_starts :
    after (step { ready 0 with inputs := [.command 0x00000002] }) (fun t => (t.fsm, t.trace)) =
      some (.sWrTcmd, [.w 0x77 0xF4 [0x2E]]) := by decide
theorem test_measure_uncalibrated :
    after (step { State.reset with inputs := [.command 0x00000002] }) (fun t => (t.fsm, lastResponse t)) =
      some (.uncal, some ⟨0x00000004, .none, none⟩) := by decide
theorem test_getTemp :
    after (step { measured with inputs := [.command 0x00000003] }) lastResponse =
      some (some ⟨0x00030000, .temp 150, none⟩) := by decide
theorem test_getTemp_no_reading :
    after (step { State.reset with inputs := [.command 0x00000003] }) lastResponse =
      some (some ⟨0x00000006, .none, none⟩) := by decide
theorem test_getPress :
    after (step { measured with inputs := [.command 0x00000004] }) lastResponse =
      some (some ⟨0x00030000, .press 69964, none⟩) := by decide
theorem test_getCal :
    after (step { measured with inputs := [.command 0x00000005] }) lastResponse =
      some (some ⟨0x00030000, .cal [0x0198, 0xFFB8, 0xC7D1, 0x7FE5, 0x7FF5, 0x5A71, 0x182E, 0x0004, 0x8000, 0xDDF9,
        0x0B34], none⟩) := by decide
theorem test_getStatus_after_reset :
    after (step { State.reset with inputs := [.command 0x00000006] }) (fun t => (t.lastStatus, lastResponse t)) =
      some (0x000000FF, some ⟨0x000000FF, .none, none⟩) := by decide
/-- 40_host_commands.md R126's example. -/
theorem test_illegal :
    after (step { measured with inputs := [.command 0x00000102] }) (fun t => (t.lastStatus, lastResponse t)) =
      some (0x00030008, some ⟨0x00030008, .none, none⟩) := by decide

/-! ### Micro-operations -/

theorem test_rdCal_commits :
    after (step (initializing [.readOk block.toList])) (fun t => (t.fsm, t.oss, t.cal.ac1, t.cal.md, t.lastStatus)) =
      some (.ready, 1, 408, 2868, 0x00010000) := by decide
/-- Program P4's second INIT. -/
theorem test_rdCal_aborts :
    after (step (initializing [.busErr (err .deviceAbsent)])) (fun t => (t.fsm, t.devAddr, lastResponse t)) =
      some (.uncal, 0, some ⟨0x00001101, .none, some (err .deviceAbsent)⟩) := by decide
theorem test_wrTcmd :
    after (step (waiting .sWrTcmd 2 [.writeOk])) (fun t => (t.fsm, t.pend, t.trace)) =
      some (.sDlyT, some (.delay 14000000), [.wOk, .d 14000000]) := by decide
theorem test_wrTcmd_aborts :
    after (step (waiting .sWrTcmd 0 [.busErr (err .other)])) (fun t => (t.fsm, t.lastStatus)) =
      some (.ready, 0x00014202) := by decide
theorem test_dlyT :
    after (step (waiting .sDlyT 0 [.delayDone])) (fun t => (t.fsm, t.trace)) =
      some (.sRdT, [.dDone, .r 0x77 0xF6 2]) := by decide
theorem test_rdT :
    after (step (waiting .sRdT 3 [.readOk [0x6C, 0xFA]])) (fun t => (t.fsm, t.stgT, t.rawT, t.pend)) =
      some (.sWrPcmd, ⟨0x6C, 0xFA⟩, ⟨0, 0⟩, some (.bus (.write 0x77 0xF4 [0xF4]))) := by decide
theorem test_rdT_aborts :
    after (step (waiting .sRdT 0 [.busErr (err .addressRejected)])) (fun t => (t.fsm, t.lastStatus)) =
      some (.ready, 0x00012402) := by decide
theorem test_wrPcmd :
    after (step (waiting .sWrPcmd 1 [.writeOk])) (fun t => (t.fsm, t.trace)) =
      some (.sDlyP, [.wOk, .d 8000000]) := by decide
theorem test_wrPcmd_aborts :
    after (step (waiting .sWrPcmd 0 [.busErr (err .deviceAbsent)])) (fun t => (t.fsm, t.lastStatus)) =
      some (.ready, 0x00011502) := by decide
theorem test_dlyP :
    after (step (waiting .sDlyP 3 [.delayDone])) (fun t => (t.fsm, t.trace)) =
      some (.sRdP, [.dDone, .r 0x77 0xF6 3]) := by decide
theorem test_rdP :
    after (step (waiting .sRdP 0 [.readOk [0x5D, 0x23, 0x00]])) (fun t => (t.fsm, t.stgP, t.rawP, t.pend)) =
      some (.sComp, ⟨0x5D, 0x23, 0x00⟩, ⟨0, 0, 0⟩, none) := by decide
/-- Program P3's second MEASURE, but for its earlier reading. -/
theorem test_rdP_aborts :
    after (step (waiting .sRdP 3 [.busErr (err .shortTransfer)])) (fun t => (t.fsm, t.lastStatus, t.rdValid)) =
      some (.ready, 0x00013702, false) := by decide
/-- Program P1's MEASURE. -/
theorem test_comp :
    after (step (computing 0x6C 0xFA)) (fun t => (t.fsm, t.tempTenths, t.pressure, t.rawT, t.lastStatus)) =
      some (.ready, 150, 69964, ⟨0x6C, 0xFA⟩, 0x00030000) := by decide
/-- Row F1. -/
theorem test_comp_faults :
    after (step (computing 0x4F 0x3D)) (fun t => (t.fsm, t.faultDz, t.rdValid, lastResponse t)) =
      some (.ready, true, false, some ⟨0x00050807, .none, none⟩) := by decide

/-! ### The step -/

theorem test_step_reset :
    after (step { waiting .sRdT 0 [.reset] with responses := [⟨0x00010000, .none, none⟩] })
      (fun t => (t.fsm, t.calValid, t.trace, t.pend, t.responses.length)) = some (.uncal, false, [], none, 1) := by decide
/-- Program P6's late answer. -/
theorem test_step_late_answer :
    after (step { State.reset with inputs := [.readOk [0x6C, 0xFA]] }) id = some State.reset := by decide
/-- R249: late answers that would fit the pending read, or have another length, are discarded. -/
theorem test_step_late_answer_pending :
    ∀ a ∈ [Answer.readOk block.toList, .readOk [0x6C, 0xFA], .busErr (err .other)],
      after (step (initializing [.late a])) id = some (initializing []) := by decide
theorem test_step_hang : after (step (waiting .sRdT 0 [])) id = some (waiting .sRdT 0 []) := by decide
theorem test_step_wrong_length : refusal (step (waiting .sRdT 0 [.readOk [0x6C]])) = some .answerLength := by decide
theorem test_step_command_outstanding :
    refusal (step (waiting .sRdT 0 [.command 0x00000003])) = some .commandOutstanding := by decide
theorem test_exec_out_of_state : refusal (exec .comp (ready 0)) = some .microOpOutOfState := by decide
theorem test_placed_command :
    after (step (State.reset.withFetchWord 32 0x00000003)) lastResponse = some (some ⟨0x00000006, .none, none⟩) := by
  decide
theorem test_placed_microOp :
    after (step (State.reset.withFetchWord 16 0xF474)) (fun t => t.trace) = some [.w 0 0xF4 [0x74]] := by decide

/-! ### Runs (R14) -/

/-- A command that ends at once: the run of GET_STATUS has ended, and its result is its response with nothing issued. -/
theorem test_run_ended :
    ((Run.begin { State.reset with inputs := [.command 0x00000006] }).steps 1).map
      (fun r => (r.completes [0x00000006], r.ended, r.result.responses, r.result.trace)) =
      some (true, true, [⟨0x000000FF, .none, none⟩], []) := by decide
/-- A command still to come is not of the run yet, so the program is not complete. -/
theorem test_run_program_not_complete :
    ((Run.begin { State.reset with inputs := [.command 0x00000006, .command 0x00000002] }).steps 1).map
      (fun r => (r.ended, r.completes [0x00000006, 0x00000002])) = some (true, false) := by decide
/-- Program P6 in little: a pending request, and the reset that abandons its command, leave the run unended. -/
theorem test_run_pending :
    ((Run.begin { State.reset with inputs := [.command 0x00007701] }).steps 2).map (fun r => (r.ended, r.outstanding)) =
      some (false, true) := by decide
theorem test_run_abandoned :
    ((Run.begin { State.reset with inputs := [.command 0x00007701, .reset] }).steps 2).map
      (fun r => (r.ended, r.state.fsm, r.responses)) = some (false, .uncal, []) := by decide

/-! ### Host-side functions: 95_test_vectors.md section 7 -/

theorem test_celsius : celsius (-298) = -29.8 := by
  have h : BitVec.toInt (-298 : S32) = -298 := by decide
  rw [celsius, h]; norm_num
theorem test_encodeCal : encodeCal (decodeCal block) = block := by decide
/-- Section 1.2's coefficients, each under its type. -/
theorem test_calibrationTable :
    (decodeCal block).table = [("AC1", 408), ("AC2", -72), ("AC3", -14383), ("AC4", 32741), ("AC5", 32757), ("AC6", 23153),
      ("B1", 6190), ("B2", 4), ("MB", -32768), ("MC", -8711), ("MD", 2868)] := by decide

/-! ### Witnesses: for each statement with hypotheses, a state and operands that meet them all -/

theorem witness_DecodeOfEncodeIsTheInstruction :
    (Instr.illegal 0x00000007).wellFormed = true ∧ (Instr.init 0xFF 0xFF).wellFormed = true ∧
      (Instr.wrPcmd 3).wellFormed = true := by decide

theorem witness_EncodeOfDecodeIsTheImage :
    decode (.host 0xFFFFFFFF) = .ok (.illegal 0xFFFFFFFF) ∧ decode (.busWrite 0xF4 0xF4) = .ok (.wrPcmd 3) := by decide

/-- The words at the ends of INIT's range, and each single word. -/
theorem witness_OpcodeTableDecidesEveryWord :
    (0x00000001 : U32) &&& 0xFF0000FF = 0x00000001 ∧ (0x00FFFF01 : U32) &&& 0xFF0000FF = 0x00000001 ∧
    (0x00000002 : U32) &&& 0xFFFFFFFF = 0x00000002 ∧ (0x00000003 : U32) &&& 0xFFFFFFFF = 0x00000003 ∧
    (0x00000004 : U32) &&& 0xFFFFFFFF = 0x00000004 ∧ (0x00000005 : U32) &&& 0xFFFFFFFF = 0x00000005 ∧
    (0x00000006 : U32) &&& 0xFFFFFFFF = 0x00000006 := by
  repeat' apply And.intro
  all_goals decide

/-- The illegal clause of the same statement, at INIT's neighbour. -/
theorem witness_OpcodeTableDecidesEveryWord_illegal :
    (0x01000001 : U32) &&& 0xFF0000FF ≠ 0x00000001 ∧ (0x01000001 : U32) &&& 0xFFFFFFFF ≠ 0x00000002 ∧
    (0x01000001 : U32) &&& 0xFFFFFFFF ≠ 0x00000003 ∧ (0x01000001 : U32) &&& 0xFFFFFFFF ≠ 0x00000004 ∧
    (0x01000001 : U32) &&& 0xFFFFFFFF ≠ 0x00000005 ∧ (0x01000001 : U32) &&& 0xFFFFFFFF ≠ 0x00000006 := by
  repeat' apply And.intro
  all_goals decide

theorem witness_ResetIsTakenInEveryState :
    (waiting .sRdP 0 [.reset, .delayDone]).inputs = .reset :: [.delayDone] := by decide

theorem witness_LateAnswerIsDiscarded :
    ∀ a ∈ [Input.writeOk, .readOk [1], .busErr (err .other), .delayDone],
      ({ measured with inputs := [a] } : State).fsm.isStable = true ∧
      ({ measured with inputs := [a] } : State).inputs = a :: [] := by decide

/-- The late clause of the same statement, in a waiting state and in an idle one. -/
theorem witness_LateAnswerIsDiscarded_pending :
    ∀ s ∈ [initializing [.late (.readOk [0x6C, 0xFA])], { measured with inputs := [.late (.readOk [0x6C, 0xFA])] }],
      s.PendMatchesFsm ∧ s.fsm ≠ .sComp ∧ s.inputs = .late (.readOk [0x6C, 0xFA]) :: [] := by decide

/-- All three clauses, with the modes 3, 4 and 255 at the ends of the two ranges. -/
theorem witness_InitChecksThenStages :
    ((ready 0).fsm.isStable = true ∧ (ready 0).calValid = true) ∧
    (State.reset.fsm.isStable = true ∧ State.reset.calValid = false) ∧
    3 < (4 : U8).toNat ∧ 3 < (255 : U8).toNat ∧ (3 : U8).toNat ≤ 3 ∧ (0 : U8).toNat ≤ 3 := by decide

theorem witness_MeasureStartsOrIsRejected :
    ((ready 0).fsm.isStable = true ∧ (ready 0).calValid = true) ∧
    (State.reset.fsm.isStable = true ∧ State.reset.calValid = false) := by decide

theorem witness_GetTempReturnsTheReading :
    (measured.fsm.isStable = true ∧ measured.rdValid = true) ∧
    ((ready 0).fsm.isStable = true ∧ (ready 0).rdValid = false) := by decide

theorem witness_GetPressReturnsTheReading :
    (measured.fsm.isStable = true ∧ measured.rdValid = true) ∧
    (State.reset.fsm.isStable = true ∧ State.reset.rdValid = false) := by decide

theorem witness_GetCalReturnsTheCoefficients :
    ((ready 0).fsm.isStable = true ∧ (ready 0).calValid = true) ∧
    (State.reset.fsm.isStable = true ∧ State.reset.calValid = false) := by decide

theorem witness_GetStatusReturnsLastStatus : measured.fsm.isStable = true ∧ State.reset.fsm.isStable = true := by decide

theorem witness_IllegalWordChangesOnlyLastStatus :
    measured.fsm.isStable = true ∧ isCommandWord 0x00000102 = false ∧ isCommandWord 0x00000000 = false := by decide

theorem witness_CommandWhileOutstandingHasNoStep :
    (waiting .sRdT 0 []).fsm.isStable = false ∧ (computing 0 0).fsm.isStable = false := by decide

theorem witness_RdCalIssuesThenCommitsOrAborts :
    (({ initializing [] with pend := none } : State).fsm = .sRdCal ∧
      ({ initializing [] with pend := none } : State).pend = none) ∧
    ∀ a ∈ [Input.readOk block.toList, .busErr (err .deviceAbsent)],
      (initializing [a]).fsm = .sRdCal ∧
      (initializing [a]).pend = some (.bus (.read (initializing [a]).stgAddr 0xAA 22)) ∧
      (initializing [a]).inputs = a :: [] := by decide

theorem witness_WrTcmdIssuesThenMoves :
    (({ ready 0 with fsm := .sWrTcmd } : State).fsm = .sWrTcmd ∧ ({ ready 0 with fsm := .sWrTcmd } : State).pend = none) ∧
    ((waiting .sWrTcmd 0 [.writeOk]).fsm = .sWrTcmd ∧
      (waiting .sWrTcmd 0 [.writeOk]).pend = some (.bus (.write (waiting .sWrTcmd 0 [.writeOk]).devAddr 0xF4 [0x2E])) ∧
      (waiting .sWrTcmd 0 [.writeOk]).inputs = .writeOk :: []) := by decide

/-- All four modes in all four clauses. -/
theorem witness_DelaysIssueThenMove :
    ∀ row ∈ [((0 : U2), 5000000), (1, 8000000), (2, 14000000), (3, 26000000)],
      ∀ f ∈ [Fsm.sDlyT, .sDlyP],
        (let s : State := { ready row.1 with fsm := f };
          s.oss = row.1 ∧ s.fsm = f ∧ s.pend = none) ∧
        (let s := waiting f row.1 [.delayDone];
          s.oss = row.1 ∧ s.fsm = f ∧ s.pend = some (.delay row.2) ∧ s.inputs = .delayDone :: []) := by decide

theorem witness_RdTIssuesThenStages :
    (({ ready 0 with fsm := .sRdT } : State).fsm = .sRdT ∧ ({ ready 0 with fsm := .sRdT } : State).pend = none) ∧
    (let s := waiting .sRdT 0 [.readOk [0x6C, 0xFA]];
      s.fsm = .sRdT ∧ s.pend = some (.bus (.read s.devAddr 0xF6 2)) ∧ s.inputs = .readOk [0x6C, 0xFA] :: []) := by decide

theorem witness_WrPcmdIssuesThenMoves :
    (let s : State := { ready 3 with fsm := .sWrPcmd };
      s.fsm = .sWrPcmd ∧ (0xF4 : U8) = 0x34 ||| (s.oss.setWidth 8 <<< 6) ∧ s.pend = none) ∧
    (let s := waiting .sWrPcmd 0 [.writeOk];
      s.fsm = .sWrPcmd ∧ (0x34 : U8) = 0x34 ||| (s.oss.setWidth 8 <<< 6) ∧
      s.pend = some (.bus (.write s.devAddr 0xF4 [0x34])) ∧ s.inputs = .writeOk :: []) := by decide

theorem witness_RdPIssuesThenStages :
    (({ ready 0 with fsm := .sRdP } : State).fsm = .sRdP ∧ ({ ready 0 with fsm := .sRdP } : State).pend = none) ∧
    (let s := waiting .sRdP 0 [.readOk [0x5D, 0x23, 0x00]];
      s.fsm = .sRdP ∧ s.pend = some (.bus (.read s.devAddr 0xF6 3)) ∧
      s.inputs = .readOk [0x5D, 0x23, 0x00] :: []) := by decide

theorem witness_MeasurePhaseFailureAborts :
    ∀ f ∈ [Fsm.sWrTcmd, .sRdT, .sWrPcmd, .sRdP],
      let s := waiting f 2 [.busErr (err .shortTransfer)];
      s.fsm = f ∧ s.pend = s.entryRequest ∧ s.inputs = .busErr (err .shortTransfer) :: [] := by decide

/-- Vector V1. -/
theorem witness_CompCommitsTheReading :
    (computing 0x6C 0xFA).fsm = .sComp ∧
    ∃ dp, compensate (computing 0x6C 0xFA).cal (computing 0x6C 0xFA).oss (rawTempCount (computing 0x6C 0xFA).stgT)
      (rawPressCount (computing 0x6C 0xFA).stgP (computing 0x6C 0xFA).oss) = .done dp := ⟨rfl, _, rfl⟩

/-- Vectors V16 and V17. -/
theorem witness_CompFaultWritesNothingElse :
    ((computing 0x4F 0x3D).fsm = .sComp ∧
      compensate (computing 0x4F 0x3D).cal (computing 0x4F 0x3D).oss (rawTempCount (computing 0x4F 0x3D).stgT)
        (rawPressCount (computing 0x4F 0x3D).stgP (computing 0x4F 0x3D).oss) = .divByZero .compT) ∧
    (let s : State := { computing 0x6C 0xFA with cal := { decodeCal block with ac4 := 0 } };
      s.fsm = .sComp ∧
      compensate s.cal s.oss (rawTempCount s.stgT) (rawPressCount s.stgP s.oss) = .divByZero .compP) := by decide

theorem witness_UnansweredRequestHoldsForever :
    (waiting .sRdT 0 []).PendMatchesFsm ∧ (waiting .sRdT 0 []).hung ∧ (waiting .sDlyP 3 []).PendMatchesFsm ∧
      (waiting .sDlyP 3 []).hung := by decide

theorem witness_WrongLengthAnswerIsRejected :
    let s := waiting .sRdP 0 [.readOk [0x5D, 0x23]];
    s.PendMatchesFsm ∧ s.pend = some (.bus (.read 0x77 0xF6 3)) ∧ s.inputs = .readOk [0x5D, 0x23] :: [] ∧
      [0x5D, 0x23].length ≠ 3 := by decide

theorem witness_MicroOpHasNoStepElsewhere :
    (ready 0).fsm.microOp (ready 0).oss ≠ some .comp ∧
    (waiting .sDlyT 1 []).fsm.microOp (waiting .sDlyT 1 []).oss ≠ some (.dlyT 2) := by decide

theorem witness_StepRunsTheDecodedCommand :
    (let s : State := { ready 0 with inputs := [.command 0x00000003] };
      s.fsm ≠ .sComp ∧ s.inputs = .command 0x00000003 :: [] ∧
      (after (exec (decodeHost 0x00000003) { s with inputs := [] }) lastResponse).isSome = true) ∧
    (let s := waiting .sRdT 0 [.command 0x00000003];
      s.fsm ≠ .sComp ∧ s.inputs = .command 0x00000003 :: [] ∧
      refusal (exec (decodeHost 0x00000003) { s with inputs := [] }) = some .commandOutstanding) := by decide

theorem witness_StepRunsTheMicroOp :
    (let s := waiting .sRdT 0 [.readOk [0x6C, 0xFA]];
      s.fsm.microOp s.oss = some .rdT ∧ ¬ s.resetNext ∧ s.inputs = .readOk [0x6C, 0xFA] :: [] ∧
      (after (exec .rdT s) lastResponse).isSome = true) ∧
    (let s := waiting .sRdT 0 [.readOk [0x6C]];
      s.fsm.microOp s.oss = some .rdT ∧ ¬ s.resetNext ∧ s.inputs = .readOk [0x6C] :: [] ∧
      refusal (exec .rdT s) = some .answerLength) ∧
    (let s : State := { computing 0x6C 0xFA with inputs := [.command 0x00000003] };
      s.fsm.microOp s.oss = some .comp ∧ ¬ s.resetNext ∧ s.fsm = .sComp ∧
      (after (exec .comp s) lastResponse).isSome = true) := by decide

theorem witness_EnteringAStateIssuesItsRequest :
    (waiting .sRdT 0 []).pend ≠ none ∧ (ready 0).fsm = .ready ∧ State.reset.fsm = .uncal ∧ (computing 0 0).fsm = .sComp ∧
    ∀ f ∈ [Fsm.sRdCal, .sWrTcmd, .sDlyT, .sRdT, .sWrPcmd, .sDlyP, .sRdP],
      ({ ready 3 with fsm := f } : State).pend = none ∧ ({ ready 3 with fsm := f } : State).fsm = f := by decide

theorem witness_PlacedWordIsRunNext :
    decodeTableWord 32 0x00007701 = some (.init 0x77 0) ∧ decodeTableWord 16 0xF42E = some .wrTcmd ∧
    decodeTableWord 8 0xAA = some .rdCal ∧ decodeTableWord 8 0xF6 = some .rdT ∧ decodeTableWord 8 0x09 = some .comp ∧
    decodeTableWord 8 0x03 = some (.dlyT 3) := by decide

/-- A step from a state that meets the invariants: a command, an answer, and a computation. -/
theorem witness_EveryStepKeepsTheInvariants :
    ∀ s ∈ [{ measured with inputs := [.command 0x00000002] }, waiting .sRdT 0 [.readOk [0x6C, 0xFA]],
        computing 0x6C 0xFA, initializing [.readOk block.toList]],
      s.Inv ∧ (after (step s) lastResponse).isSome = true := by decide

theorem witness_CalibratedHandleIsImmutable :
    let s := waiting .sRdP 0 [.readOk [0x5D, 0x23, 0x00]];
    s.Inv ∧ s.calValid = true ∧ ¬ s.resetNext ∧ (after (step s) lastResponse).isSome = true := by decide

theorem witness_ReadingFieldsChangeOnlyTogether :
    ∀ s ∈ [computing 0x6C 0xFA, { measured with inputs := [.command 0x00000003] }],
      ¬ s.resetNext ∧ (after (step s) lastResponse).isSome = true := by decide

/-- Both clauses: the bit stays, and row F1 sets it. -/
theorem witness_FaultBitIsSticky :
    (let s : State := { computing 0x6C 0xFA with faultDz := true };
      ¬ s.resetNext ∧ (after (step s) lastResponse).isSome = true ∧ s.faultDz = true) ∧
    (¬ (computing 0x4F 0x3D).resetNext ∧ (computing 0x4F 0x3D).faultDz = false ∧
      after (step (computing 0x4F 0x3D)) (fun t => t.faultDz) = some true) := by decide

theorem witness_FsmMovesOnlyAlongItsEdges :
    let s := waiting .sRdP 0 [.busErr (err .other)];
    s.CalMatchesFsm ∧ ¬ s.resetNext ∧ (after (step s) lastResponse).isSome = true := by decide

theorem witness_TraceGrowsOnlyByTheBlocksRequests :
    let s := waiting .sDlyT 2 [.delayDone];
    s.Inv ∧ ¬ s.resetNext ∧ (after (step s) lastResponse).isSome = true := by decide

/-- Both branches: a command that ends at once, one that ends with its last answer, and one that goes on. -/
theorem witness_EachCommandEndsWithOneResponse :
    ∀ row ∈ [({ measured with inputs := [.command 0x00000003] }, true), (initializing [.readOk block.toList], true),
        (waiting .sDlyT 0 [.delayDone], false)],
      row.1.Inv ∧ ¬ row.1.resetNext ∧ after (step row.1) (fun t => t.fsm.isStable) = some row.2 := by decide

theorem witness_NothingVisibleChangesBeforeTheResponse :
    let s := waiting .sRdT 0 [.readOk [0x6C, 0xFA]];
    ¬ s.resetNext ∧ after (step s) (fun t => t.responses) = some s.responses := by decide

/-- A rejected command, an aborted one and a fault. -/
theorem witness_ErrorsArePrecise :
    ∀ row ∈ [({ State.reset with inputs := [.command 0x00000002] }, (⟨0x00000004, .none, none⟩ : Response)),
        (waiting .sRdP 0 [.busErr (err .other)], ⟨0x00014702, .none, some (err .other)⟩),
        (computing 0x4F 0x3D, ⟨0x00050807, .none, none⟩)],
      ¬ row.1.resetNext ∧ after (step row.1) (fun t => t.responses) = some (row.1.responses ++ [row.2]) ∧
      statusCode row.2.status ≠ 0x00 := by decide

theorem witness_LastStatusIsTheLastResponse :
    let s : State := { measured with inputs := [.command 0x00000004] };
    ¬ s.resetNext ∧
    after (step s) (fun t => t.responses) = some (s.responses ++ [⟨0x00030000, .press 69964, none⟩]) := by decide

/-- Program P1's INIT. -/
theorem witness_InitRunCalibratesTheHandle :
    let s : State := { State.reset with inputs := [.command 0x00007701, .readOk block.toList] };
    s.fsm = .uncal ∧ s.calValid = false ∧ s.pend = none ∧
    s.inputs = .command (AsmLine.assemble (.init 0x77 ((0 : U2).setWidth 8))) :: .readOk block.toList :: [] := by decide

/-- Program P1's MEASURE. -/
theorem witness_MeasureRunCommitsTheReading :
    let s : State := { ready 0 with
      inputs := [.command 0x00000002, .writeOk, .delayDone, .readOk [0x6C, 0xFA], .writeOk, .delayDone,
        .readOk [0x5D, 0x23, 0x00]] };
    s.fsm = .ready ∧ s.calValid = true ∧ s.pend = none ∧
    s.inputs = .command 0x00000002 :: .writeOk :: .delayDone :: .readOk [0x6C, 0xFA] :: .writeOk :: .delayDone ::
      .readOk [0x5D, 0x23, 0x00] :: [] ∧
    ([] : List Input).head? ≠ some .reset ∧
    ∃ dp, compensate s.cal s.oss (rawTempCount ⟨0x6C, 0xFA⟩) (rawPressCount ⟨0x5D, 0x23, 0x00⟩ s.oss) = .done dp :=
  ⟨rfl, rfl, rfl, rfl, by decide, _, rfl⟩

/-- Program P3's second MEASURE. -/
theorem witness_FailedPressureReadKeepsTheReading :
    let s : State := { ready 3 with
      inputs := [.command 0x00000002, .writeOk, .delayDone, .readOk [0x6D, 0x00], .writeOk, .delayDone,
        .busErr (err .shortTransfer)] };
    s.fsm = .ready ∧ s.calValid = true ∧ s.pend = none ∧
    s.inputs = .command 0x00000002 :: .writeOk :: .delayDone :: .readOk [0x6D, 0x00] :: .writeOk :: .delayDone ::
      .busErr (err .shortTransfer) :: [] := by decide

/-- A run that has ended and one that has not. -/
theorem witness_RunEndsWhenEveryCommandIsAnswered :
    ∀ row ∈ [(State.reset, [Input.command 0x00000006], true), (ready 0, [.command 0x00000002], false)],
      ({ row.1 with inputs := row.2.1 } : State).Inv ∧ ({ row.1 with inputs := row.2.1 } : State).fsm.isStable = true ∧
      (∀ a ∈ row.2.1, a ≠ .reset) ∧
      ((Run.begin { row.1 with inputs := row.2.1 }).steps 1).map (fun r => (r.ended, r.commands.isEmpty)) =
        some (row.2.2, false) := by decide

/-- Both clauses: a MEASURE whose temperature read is never answered, and the same with a reset next. -/
theorem witness_UnansweredRunHasNotEnded :
    (let r : Run := ⟨waiting .sRdT 0 [], [0x00000002], [], true⟩;
      r.state.PendMatchesFsm ∧ r.state.hung ∧ (r.steps 2).isSome = true) ∧
    (let r : Run := ⟨waiting .sRdT 0 [.reset], [0x00000002], [], true⟩;
      r.outstanding = true ∧ r.state.inputs = .reset :: []) := by decide

/-- The counts 0 and 65535, and all three clauses: V16, V17 and V1. -/
theorem witness_PipelineIsTheIntegerFormula :
    (0 ≤ (0 : S32).toInt ∧ (0 : S32).toInt ≤ 65535) ∧ (0 ≤ (65535 : S32).toInt ∧ (65535 : S32).toInt ≤ 65535) ∧
    (let k := IntCal.of (decodeCal block);
      intX1 k 20285 + k.md = 0 ∧ intX1 k 27898 + k.md ≠ 0 ∧ intB4 k (intB5 k 27898 - 4000) ≠ 0) ∧
    (let k := IntCal.of { decodeCal block with ac4 := 0 };
      intX1 k 27898 + k.md ≠ 0 ∧ intB4 k (intB5 k 27898 - 4000) = 0) := by decide

theorem witness_TemperatureStepsNeverWrap :
    (0 ≤ (0 : S32).toInt ∧ (0 : S32).toInt ≤ 65535) ∧ (0 ≤ (65535 : S32).toInt ∧ (65535 : S32).toInt ≤ 65535) := by
  decide

/-- Two coefficient files that agree in the four names and differ in AC1 and MB, in two modes. -/
theorem witness_TemperatureDependsOnFiveInputs :
    (let c := decodeCal block;
      let c' := { c with ac1 := 1, mb := 1 };
      c'.ac5 = c.ac5 ∧ c'.ac6 = c.ac6 ∧ c'.mc = c.mc ∧ c'.md = c.md) ∧
    (∃ dp, compensate (decodeCal block) 0 27898 23843 = .done dp) ∧
    (∃ dp, compensate { decodeCal block with ac1 := 1, mb := 1 } 3 27898 100 = .done dp) :=
  ⟨by decide, ⟨_, rfl⟩, ⟨_, rfl⟩⟩

theorem witness_AltitudeOfEqualOrNonPositivePressures :
    (0 : S32).toInt ≤ 0 ∧ (-1 : S32).toInt ≤ 0 ∧ 0 < (1 : S32).toInt ∧ 0 < (101325 : S32).toInt := by decide

end Sys2Proof.Tests
end

/-! PROOFS. The three ways a step begins, read off the inputs: a reset, a command word, or the FSM's micro-operation; and
the statement about the third. -/

namespace Sys2Proof.Machine

open Sys2Proof

/-- R249: a reset that is next wins over everything. -/
theorem step_of_reset {s : State} {rest : List Input} (hi : s.inputs = .reset :: rest) :
    step s = .next (State.resetAction { s with inputs := rest }) := by
  simp [step, State.fetch, hi]

/-- R82: outside `S_COMP` a command word that is next is decoded and run. -/
theorem fetch_of_command {s : State} {w : U32} {rest : List Input} (hi : s.inputs = .command w :: rest)
    (hf : s.fsm ≠ .sComp) : s.fetch = .run (decodeHost w) { s with inputs := rest } := by
  simp [State.fetch, hi, hf]

/-- `S_COMP` is the state that issues COMP (R86). -/
theorem microOp_of_sComp {s : State} {i : Instr} (hm : s.fsm.microOp s.oss = some i) (hf : s.fsm = .sComp) :
    i = .comp := by
  simpa [hf, Fsm.microOp, eq_comm] using hm

/-- R86: a transient state runs its micro-operation, unless a reset or (outside `S_COMP`) a command is next. -/
theorem fetch_of_microOp {s : State} {i : Instr} (hm : s.fsm.microOp s.oss = some i) (hr : ¬ s.resetNext)
    (hc : s.fsm = .sComp ∨ ∀ w, s.inputs.head? ≠ some (.command w)) : s.fetch = .run i s := by
  unfold State.fetch
  split
  next rest hi => exact absurd (by simp [State.resetNext, hi]) hr
  next w rest hi =>
    have hf : s.fsm = .sComp := hc.resolve_right fun h => h w (by simp [hi])
    rw [if_pos hf, microOp_of_sComp hm hf]
  next => rw [hm]

theorem step_of_fetch_run {s u : State} {i : Instr} (hf : s.fetch = .run i u) : step s = enterOutcome (exec i u) := by
  simp [step, hf]

/-- Settles O33: the step is the micro-operation that `fetch_of_microOp` finds, and `enterOutcome` of its outcome. -/
theorem stepRunsTheMicroOp : Obligations.StepRunsTheMicroOp := by
  intro s i hm hr hc
  have hs : step s = enterOutcome (exec i s) := step_of_fetch_run (fetch_of_microOp hm hr hc)
  constructor
  · intro t ht; rw [hs, ht]; rfl
  · intro r hx; rw [hs, hx]; rfl

end Sys2Proof.Machine

/-! PROOFS. The pending request (R35, R41.4): what a stable state has pending, that a step keeps `PendMatchesFsm`, and
that a request which nothing answers is held. -/

namespace Sys2Proof.Machine

open Sys2Proof

theorem State.entryRequest_of_stable {s : State} (h : s.fsm.isStable = true) : s.entryRequest = none := by
  cases hf : s.fsm <;> simp [hf, Fsm.isStable, State.entryRequest] at h ⊢

theorem State.PendMatchesFsm.pend_of_stable {s : State} (hp : s.PendMatchesFsm) (h : s.fsm.isStable = true) :
    s.pend = none :=
  Eq.trans hp (State.entryRequest_of_stable h)

/-- Entering a state does not change which request that state issues. -/
theorem State.enter_entryRequest (s : State) : s.enter.entryRequest = s.entryRequest := by
  obtain h | ⟨r, -, -, h⟩ := s.enter_cases <;> rw [h]
  rfl

theorem State.enter_pendMatchesFsm {v : State} (h : v.pend = none ∨ v.pend = v.entryRequest) :
    v.enter.PendMatchesFsm :=
  (State.enter_pend h).trans v.enter_entryRequest.symm

/-- A host command leaves `pend` as it is. -/
theorem CommandCase.pend_eq {s v : State} (h : CommandCase s v) : v.pend = s.pend := by
  cases h <;> rfl

/-- A micro-operation leaves nothing pending, or the request of the state it leaves the FSM in. -/
theorem MicroOpCase.pend_settled {s v : State} (h : MicroOpCase s v) (hp : s.PendMatchesFsm) :
    v.pend = none ∨ v.pend = v.entryRequest := by
  cases h with
  | issues r _ hr => exact .inr hr.symm
  | holds _ hr inputs => exact .inr hr
  | measureCommits dp hf hd => exact .inl (hp.trans (by simp [State.entryRequest, hf]))
  | compFaults d hf hd => exact .inl (hp.trans (by simp [State.entryRequest, hf]))
  | _ => exact .inl rfl

/-- R35, R41.4: every step keeps `pend` the request of the FSM state. -/
theorem step_keeps_pendMatchesFsm {s t : State} (hp : s.PendMatchesFsm) (h : step s = .next t) : t.PendMatchesFsm := by
  rcases step_cases h with ⟨rest, -, rfl⟩ | ⟨-, -, rfl⟩ | ⟨w, rest, v, -, hs, hc, rfl⟩ | ⟨-, v, hm, rfl⟩
  · rfl
  · exact hp
  · exact State.enter_pendMatchesFsm (.inl (hc.pend_eq.trans (hp.pend_of_stable hs)))
  · exact State.enter_pendMatchesFsm (hm.pend_settled hp)

/-- R159: a micro-operation whose request is pending holds while nothing arrives. -/
theorem microOp_holds {i : Instr} {req : Request} {onOk : List U8 → State → State} {onErr : BusError → State → State}
    {s : State} (hm : s.fsm.microOp s.oss = some i) (hp : s.pend = some req) (hi : s.inputs = []) :
    microOp i req onOk onErr s = .next s := by
  rw [microOp_answer hm hp, awaitAnswer, hi]

/-- R159, R264: a state whose request nothing answers steps to itself. -/
theorem step_of_hung {s : State} (hp : s.PendMatchesFsm) (hh : s.hung) : step s = .next s := by
  obtain ⟨hs, hi⟩ := hh
  obtain ⟨i, hm, hx⟩ : ∃ i, s.fsm.microOp s.oss = some i ∧ exec i s = .next s := by
    unfold State.PendMatchesFsm at hp
    cases hf : s.fsm <;> simp only [State.entryRequest, hf] at hp
    case uncal | ready | sComp => simp [hp] at hs
    all_goals exact ⟨_, rfl, microOp_holds (by rw [hf]; rfl) hp hi⟩
  have he : s.enter = s := State.enter_of_settled (.inl (Option.isSome_iff_ne_none.mp hs))
  rw [step_of_fetch_run (fetch_of_microOp hm (by simp [State.resetNext, hi]) (.inr (by simp [hi]))), hx, enterOutcome, he]

end Sys2Proof.Machine

/-! PROOFS. R100: when a step responds. -/

namespace Sys2Proof.Machine

open Sys2Proof

/-- How `v` answers the command that `s` was working on: with one response if the FSM is stable again, else with none. -/
def State.AnswersIfStable (s v : State) : Prop :=
  (v.fsm.isStable = true ∧ ∃ x, v.responses = s.responses ++ [x]) ∨
  (v.fsm.isStable = false ∧ v.responses = s.responses)

theorem CommandCase.answersIfStable {s v : State} (h : CommandCase s v) (hs : s.fsm.isStable = true) :
    s.AnswersIfStable v := by
  cases h with
  | initStarts a m hc hm => exact .inr ⟨rfl, rfl⟩
  | measureStarts hc => exact .inr ⟨rfl, rfl⟩
  | rejects c hc => exact .inl ⟨hs, _, rfl⟩
  | answers d => exact .inl ⟨hs, _, rfl⟩
  | status => exact .inl ⟨hs, _, rfl⟩

theorem MicroOpCase.answersIfStable {s v : State} (h : MicroOpCase s v) (hs : s.fsm.isStable = false) :
    s.AnswersIfStable v := by
  cases h with
  | issues r hp hr => exact .inr ⟨hs, rfl⟩
  | holds hp hr inputs => exact .inr ⟨hs, rfl⟩
  | moves ev rest f hf =>
    refine .inr ⟨?_, rfl⟩
    rcases hf with ⟨-, rfl, -⟩ | ⟨-, rfl, -⟩ | ⟨-, rfl, -⟩ | ⟨-, rfl, -⟩ <;> rfl
  | stagesT b rest hf => exact .inr ⟨rfl, rfl⟩
  | stagesP b rest hf => exact .inr ⟨rfl, rfl⟩
  | _ => exact .inl ⟨rfl, _, rfl⟩

theorem State.AnswersIfStable.enter {s v : State} (h : s.AnswersIfStable v) : s.AnswersIfStable v.enter := by
  simpa [State.AnswersIfStable] using h

/-- R257: a step from a transient state takes no command. -/
theorem takenCommand_of_transient {s t : State} (h : step s = .next t) (hs : s.fsm.isStable = false) :
    s.takenCommand = [] := by
  by_cases hf : s.fsm = .sComp
  · exact State.takenCommand_nil (.inl hf)
  · refine State.takenCommand_nil (.inr fun w hw => ?_)
    obtain ⟨rest, hi⟩ := List.head?_eq_some_iff.mp hw
    rcases step_next h with ⟨u, hu, -⟩ | hu | ⟨i, u, v, hu, hx, -⟩ <;> rw [fetch_of_command hi hf] at hu
    · cases hu
    · cases hu
    · injection hu with hd hu
      subst hd hu
      obtain ⟨hst, -⟩ := exec_decodeHost_next hx
      exact absurd hs (by simp [hst])

/-- The commands a step has to answer: the one it takes, and the one a transient state works on (R100). -/
def State.toAnswer (s : State) : Nat := s.takenCommand.length + (!s.fsm.isStable).toNat

/-- R100: a step other than a reset idles in a stable state, or has exactly one command to answer, and answers it when it
leaves the FSM stable. -/
theorem step_answers {s t : State} (hr : ¬ s.resetNext) (h : step s = .next t) :
    (s.fsm.isStable = true ∧ s.takenCommand = [] ∧ t.fsm = s.fsm ∧ t.responses = s.responses) ∨
    (s.toAnswer = 1 ∧ s.AnswersIfStable t) := by
  rcases step_cases h with ⟨rest, hi, -⟩ | ⟨hs, hc, rfl⟩ | ⟨w, rest, v, hi, hs, hc, rfl⟩ | ⟨hs, v, hm, rfl⟩
  · exact absurd (by simp [State.resetNext, hi]) hr
  · exact .inl ⟨hs, State.takenCommand_nil (.inr hc), rfl, rfl⟩
  · have hf : s.fsm ≠ .sComp := by rintro hf; simp [hf, Fsm.isStable] at hs
    have ha : s.AnswersIfStable v := hc.answersIfStable hs
    exact .inr ⟨by simp [State.toAnswer, State.takenCommand_eq hi hf, hs], ha.enter⟩
  · exact .inr ⟨by simp [State.toAnswer, takenCommand_of_transient h hs, hs], (hm.answersIfStable hs).enter⟩

end Sys2Proof.Machine

/-! PROOFS. When a run has ended (R14). -/

namespace Sys2Proof.Machine

open Sys2Proof

/-! ### Runs without a reset -/

/-- What holds of a run begun in the stable state `s` as long as no reset comes: a command is outstanding exactly in a
transient state, and every other command issued has its response. -/
structure Run.Balanced (s : State) (r : Run) : Prop where
  noReset     : ∀ a ∈ r.state.inputs, a ≠ .reset
  pend        : r.state.PendMatchesFsm
  received    : r.state.responses = s.responses ++ r.responses
  outstanding : r.outstanding = !r.state.fsm.isStable
  count       : r.commands.length = r.responses.length + r.outstanding.toNat

theorem Run.begin_balanced {s : State} (hp : s.PendMatchesFsm) (hs : s.fsm.isStable = true)
    (hn : ∀ a ∈ s.inputs, a ≠ .reset) : (Run.begin s).Balanced s where
  noReset := hn
  pend := hp
  received := by simp
  outstanding := by simp [hs]
  count := rfl

theorem not_resetNext_of_noReset {s : State} (hn : ∀ a ∈ s.inputs, a ≠ .reset) : ¬ s.resetNext :=
  fun h => hn _ (List.mem_of_mem_head? h) rfl

/-- Every step keeps the balance. -/
theorem Run.Balanced.after {s t : State} {r : Run} (hb : r.Balanced s) (h : step r.state = .next t) :
    (r.after t).Balanced s := by
  obtain ⟨hn, hp, hrec, hout, hcount⟩ := hb
  have hn' : ∀ a ∈ t.inputs, a ≠ .reset := fun a ha => hn a ((step_inputs_suffix h).subset ha)
  have hp' : t.PendMatchesFsm := step_keeps_pendMatchesFsm hp h
  rcases step_answers (not_resetNext_of_noReset hn) h with ⟨hs, hc, hf, hresp⟩ | ⟨hone, hans⟩
  · have hret := State.returnedBy_none hresp
    exact ⟨hn', hp', by simp [hresp, hrec, hret], by simp [hret, hc, hout, hf], by simp [hret, hc, hcount]⟩
  · rw [State.toAnswer, ← hout] at hone
    obtain ⟨ht, x, hresp⟩ | ⟨ht, hresp⟩ := hans
    · have hret := State.returnedBy_append hresp
      have ho : (r.after t).outstanding = false := by simp [hret]
      refine ⟨hn', hp', by simp [hresp, hrec, hret], by rw [ho, Run.after_state, ht]; rfl, ?_⟩
      simp only [ho, Run.after_commands, Run.after_responses, hret, List.length_append, hcount, List.length_singleton,
        Bool.toNat_false]
      omega
    · have hret := State.returnedBy_none hresp
      have ho : (r.after t).outstanding = true := by
        cases hout' : r.outstanding with
        | true => simp [hret, hout']
        | false =>
          have hc : r.state.takenCommand ≠ [] := fun hc => by simp [hc, hout'] at hone
          simp [hret, hc]
      refine ⟨hn', hp', by simp [hresp, hrec, hret], by rw [ho, Run.after_state, ht]; rfl, ?_⟩
      simp only [ho, Run.after_commands, Run.after_responses, hret, List.length_append, hcount, List.length_nil,
        Bool.toNat_true]
      omega

/-- A balanced run has ended exactly when it has a command and none is outstanding: nothing is pending then. -/
theorem Run.Balanced.ended_iff {s : State} {r : Run} (hb : r.Balanced s) :
    r.ended = true ↔ r.commands ≠ [] ∧ r.outstanding = false := by
  have hpend (ho : r.outstanding = false) : r.state.pend = none :=
    hb.pend.pend_of_stable (by simpa [ho] using hb.outstanding)
  simp only [Run.ended, Bool.and_eq_true, Bool.not_eq_true', List.isEmpty_eq_false_iff, Option.isNone_iff_eq_none]
  exact ⟨fun ⟨h, _⟩ => h, fun h => ⟨h, hpend h.2⟩⟩

/-- Nothing is outstanding exactly when there are as many responses as commands. -/
theorem Run.Balanced.outstanding_eq_false_iff {s : State} {r : Run} (hb : r.Balanced s) :
    r.outstanding = false ↔ r.responses.length = r.commands.length := by
  rw [hb.count]
  cases r.outstanding <;> simp

/-- Settles O58: `Run.Balanced` holds at the beginning and every step keeps it, and it says when the run has ended. -/
theorem runEndsWhenEveryCommandIsAnswered : Obligations.RunEndsWhenEveryCommandIsAnswered := by
  rintro s k r ⟨-, -, hp, -, -⟩ hs hn hr
  have hb : r.Balanced s :=
    Run.steps_induction (P := Run.Balanced s) (fun _ _ h => h.after) (Run.begin_balanced hp hs hn) hr
  refine ⟨hb.received, by rw [hb.ended_iff, hb.outstanding_eq_false_iff], fun he => ?_, fun he hc => ?_⟩
  · obtain ⟨-, ho⟩ := hb.ended_iff.mp he
    have hst : r.state.fsm.isStable = true := by simpa [ho] using hb.outstanding
    exact ⟨hst, hb.pend.pend_of_stable hst⟩
  · have ho : r.outstanding = true := by
      by_contra ho
      exact absurd (hb.ended_iff.mpr ⟨hc, by simpa using ho⟩) (by simp [he])
    exact ⟨by simp [hb.count, ho], by simpa [ho] using hb.outstanding⟩

/-! ### Runs that do not end -/

theorem Run.ended_of_pending {r : Run} (h : r.state.pend.isSome = true) : r.ended = false := by
  obtain ⟨q, hq⟩ := Option.isSome_iff_exists.mp h
  simp [Run.ended, hq]

theorem Run.ended_of_outstanding {r : Run} (h : r.outstanding = true) : r.ended = false := by
  simp [Run.ended, h]

/-- R159, R264: a run whose request nothing answers stands still. -/
theorem Run.steps_of_hung {r q : Run} {k : Nat} (hp : r.state.PendMatchesFsm) (hh : r.state.hung)
    (h : r.steps k = some q) : q.state.PendMatchesFsm ∧ q.state.hung := by
  refine Run.steps_induction (P := fun r => r.state.PendMatchesFsm ∧ r.state.hung) ?_ ⟨hp, hh⟩ h
  rintro r t ⟨hp, hh⟩ ht
  have : r.state = t := by simpa [step_of_hung hp hh] using ht
  exact this ▸ ⟨hp, hh⟩

/-- R281: a step that takes a reset returns no response and takes no command. -/
theorem Run.after_of_reset {r : Run} {rest : List Input} (hi : r.state.inputs = .reset :: rest) :
    let q := r.after (State.resetAction { r.state with inputs := rest })
    q.commands = r.commands ∧ q.responses = r.responses ∧ q.outstanding = r.outstanding := by
  have hc : r.state.takenCommand = [] := State.takenCommand_nil (.inr (by simp [hi]))
  have hret : r.state.returnedBy (State.resetAction { r.state with inputs := rest }) = [] := State.returnedBy_none rfl
  simp [hc, hret]

/-- Settles O59: a hung run stands still with its request pending, and a reset leaves a command outstanding. -/
theorem unansweredRunHasNotEnded : Obligations.UnansweredRunHasNotEnded := by
  refine ⟨fun r q k hp hh h => ?_, fun r rest ho hi => ?_⟩
  · obtain ⟨-, hpend, -⟩ := Run.steps_of_hung hp hh h
    exact Run.ended_of_pending hpend
  · obtain ⟨hc, hresp, hout⟩ := Run.after_of_reset hi
    exact ⟨_, Run.next_some.mpr ⟨_, step_of_reset hi, rfl⟩, Run.ended_of_outstanding (hout.trans ho), hc, hresp⟩

end Sys2Proof.Machine

/-! PROOFS. The status word's fields (R84), and when a status word is legal (R84 to R87). -/

namespace Sys2Proof.Machine

open Sys2Proof

theorem flagBit_eq_ofBool (b : Bool) : flagBit b = (BitVec.ofBool b).setWidth 32 := by
  cases b <;> rfl

/-- One bit of a field of a 32-bit word that stands at bit `n`. -/
theorem getLsbD_field {w : Nat} (x : BitVec w) (n : Nat) {i : Nat} (hi : i < 32) :
    (x.setWidth 32 <<< n : U32).getLsbD i = (decide (n ≤ i) && x.getLsbD (i - n)) := by
  have : i - n < 32 := by omega
  rw [BitVec.getLsbD_shiftLeft, BitVec.getLsbD_setWidth]
  simp [hi, this, ← decide_not]

/-- R84: each field of a status word stands at its place. -/
theorem statusWord_getLsbD (c : OutcomeCode) (p : StepCode) (k : Option BusClass) (cal rdv flt : Bool) {i : Nat}
    (hi : i < 32) :
    (statusWord c p k cal rdv flt).getLsbD i =
      (c.code.getLsbD i || decide (8 ≤ i) && p.code.getLsbD (i - 8) ||
        decide (12 ≤ i) && (bclsField k).getLsbD (i - 12) || decide (16 ≤ i) && (BitVec.ofBool cal).getLsbD (i - 16) ||
        decide (17 ≤ i) && (BitVec.ofBool rdv).getLsbD (i - 17) ||
        decide (18 ≤ i) && (BitVec.ofBool flt).getLsbD (i - 18)) := by
  simp only [statusWord, flagBit_eq_ofBool, BitVec.getLsbD_or, getLsbD_field _ _ hi]
  simp [hi]

/-- R84 to R87: the fields of a status word that are bit vectors read back. -/
@[simp] theorem statusWord_fields (c : OutcomeCode) (p : StepCode) (k : Option BusClass) (cal rdv flt : Bool) :
    statusCode (statusWord c p k cal rdv flt) = c.code ∧ statusStep (statusWord c p k cal rdv flt) = p.code ∧
    statusBcls (statusWord c p k cal rdv flt) = bclsField k ∧
    statusReserved (statusWord c p k cal rdv flt) = 0 := by
  refine ⟨?_, ?_, ?_, ?_⟩ <;>
  · apply BitVec.eq_of_getLsbD_eq
    intro i hi
    simp only [statusCode, statusStep, statusBcls, statusReserved]
    rw [BitVec.getLsbD_extractLsb', statusWord_getLsbD _ _ _ _ _ _ (by omega)]
    simp (disch := omega) [BitVec.getLsbD_of_ge, decide_eq_false, hi]

/-- R84: the flags of a status word read back. -/
@[simp] theorem statusWord_flags (c : OutcomeCode) (p : StepCode) (k : Option BusClass) (cal rdv flt : Bool) :
    statusCal (statusWord c p k cal rdv flt) = cal ∧ statusRdv (statusWord c p k cal rdv flt) = rdv ∧
    statusFlt (statusWord c p k cal rdv flt) = flt := by
  simp only [statusCal, statusRdv, statusFlt]
  refine ⟨?_, ?_, ?_⟩ <;>
  · rw [statusWord_getLsbD _ _ _ _ _ _ (by decide)]
    simp

theorem OutcomeCode.code_mem (c : OutcomeCode) : c.code ∈ outcomeCodes := by
  cases c <;> decide

/-- R83, R87: the codes that carry a bus error are INIT_BUS_ERROR and MEAS_BUS_ERROR. -/
theorem OutcomeCode.wrapsBusError_iff (c : OutcomeCode) : c.wrapsBusError = true ↔ c.code = 0x01 ∨ c.code = 0x02 := by
  cases c <;> decide

theorem StepCode.code_le (p : StepCode) : p.code.toNat ≤ 9 := by
  cases p <;> decide

/-- R86: 3 and 6 are the delays' numbers. -/
theorem StepCode.code_ne_delay {p : StepCode} (h : p ≠ .dlyT ∧ p ≠ .dlyP) : p.code ≠ 3 ∧ p.code ≠ 6 := by
  cases p <;> simp_all [StepCode.code]

theorem bclsField_le (k : Option BusClass) : (bclsField k).toNat ≤ 4 := by
  rcases k with _ | c
  · decide
  · cases c <;> decide

theorem bclsField_ne_zero_iff (k : Option BusClass) : bclsField k ≠ 0 ↔ k.isSome = true := by
  rcases k with _ | c
  · decide
  · cases c <;> decide

/-- R84 to R87: a status word that names no delay, and a class of bus error exactly with a code that carries one, holds
no reserved code. -/
theorem legalStatus_statusWord {c : OutcomeCode} {p : StepCode} {k : Option BusClass} (hp : p ≠ .dlyT ∧ p ≠ .dlyP)
    (hk : k.isSome = c.wrapsBusError) (cal rdv flt : Bool) : LegalStatus (statusWord c p k cal rdv flt) := by
  obtain ⟨hcode, hstep, hbcls, hres⟩ := statusWord_fields c p k cal rdv flt
  obtain ⟨h3, h6⟩ := StepCode.code_ne_delay hp
  rw [LegalStatus, hcode, hstep, hbcls, hres, bclsField_ne_zero_iff, hk]
  exact ⟨c.code_mem, p.code_le, h3, h6, bclsField_le k, c.wrapsBusError_iff, rfl⟩

end Sys2Proof.Machine

/-! PROOFS. What a step other than a reset keeps: the handle, the reading, the fault bit, the trace and the last status. -/

namespace Sys2Proof.Machine

open Sys2Proof

/-- `step_cases` without the reset and without what it says of the FSM. -/
theorem step_cases_of_not_reset {s t : State} (hr : ¬ s.resetNext) (h : step s = .next t) :
    t = s.dropInput ∨ (∃ rest v, CommandCase { s with inputs := rest } v ∧ t = v.enter) ∨
    ∃ v, MicroOpCase s v ∧ t = v.enter := by
  rcases step_cases h with ⟨rest, hi, -⟩ | ⟨-, -, ht⟩ | ⟨w, rest, v, -, -, hc, ht⟩ | ⟨-, v, hm, ht⟩
  · exact absurd (by simp [State.resetNext, hi]) hr
  · exact .inl ht
  · exact .inr (.inl ⟨rest, v, hc, ht⟩)
  · exact .inr (.inr ⟨v, hm, ht⟩)

/-! ### The handle (R41.3) -/

/-- What an INIT commits (R142): address, mode, coefficients and `cal_valid`. -/
def State.handle (s : State) : U8 × U2 × Cal × Bool := (s.devAddr, s.oss, s.cal, s.calValid)

@[simp] theorem State.enter_handle (s : State) : s.enter.handle = s.handle := by
  simp [State.handle]

theorem CommandCase.handle_eq {s v : State} (h : CommandCase s v) : v.handle = s.handle := by
  cases h <;> rfl

/-- Only RD_CAL's commit writes the handle. -/
theorem MicroOpCase.handle_eq {s v : State} (h : MicroOpCase s v) (hf : s.fsm ≠ .sRdCal) : v.handle = s.handle := by
  cases h with
  | initCommits block rest hc => exact absurd hc hf
  | _ => rfl

/-- Settles O38: a calibrated handle is not in `S_RD_CAL`, and no other state writes it. -/
theorem calibratedHandleIsImmutable : Obligations.CalibratedHandleIsImmutable := by
  rintro s t ⟨hcal, -⟩ hv hr h
  obtain ⟨-, hf⟩ := hcal.mp hv
  have hh : t.handle = s.handle := by
    rcases step_cases_of_not_reset hr h with rfl | ⟨rest, v, hc, rfl⟩ | ⟨v, hm, rfl⟩
    · rfl
    · exact v.enter_handle.trans hc.handle_eq
    · exact v.enter_handle.trans (hm.handle_eq hf)
  simpa [State.handle, hv] using hh

/-! ### The reading (R41.5) -/

@[simp] theorem State.enter_reading (s : State) : s.enter.reading = s.reading := by
  simp [State.reading]

theorem CommandCase.reading_eq {s v : State} (h : CommandCase s v) : v.reading = s.reading := by
  cases h <;> rfl

/-- Only COMP's commit writes the reading (R152). -/
theorem MicroOpCase.reading_cases {s v : State} (h : MicroOpCase s v) :
    v.reading = s.reading ∨
    ∃ dp, s.fsm = .sComp ∧ s.compensation = .done dp ∧ v.fsm = .ready ∧
      v.reading = ⟨s.stgT, s.stgP, dp.t, dp.p, true⟩ := by
  cases h with
  | measureCommits dp hf hd => exact .inr ⟨dp, hf, hd, rfl, rfl⟩
  | _ => exact .inl rfl

/-- Settles O39: commands leave the reading as it is, and of the micro-operations only COMP's commit writes it. -/
theorem readingFieldsChangeOnlyTogether : Obligations.ReadingFieldsChangeOnlyTogether := by
  intro s t hr h
  rcases step_cases_of_not_reset hr h with rfl | ⟨rest, v, hc, rfl⟩ | ⟨v, hm, rfl⟩
  · exact .inl rfl
  · exact .inl (v.enter_reading.trans hc.reading_eq)
  · simpa using hm.reading_cases

/-! ### The fault bit (R32) -/

theorem CommandCase.faultDz_eq {s v : State} (h : CommandCase s v) : v.faultDz = s.faultDz := by
  cases h <;> rfl

/-- Only a division by zero in COMP writes `fault_dz` (R199). -/
theorem MicroOpCase.faultDz_cases {s v : State} (h : MicroOpCase s v) :
    v.faultDz = s.faultDz ∨ (v.faultDz = true ∧ s.fsm = .sComp ∧ ∃ d, s.compensation = .divByZero d) := by
  cases h with
  | compFaults d hf hd => exact .inr ⟨rfl, hf, d, hd⟩
  | _ => exact .inl rfl

/-- Settles O40: `fault_dz` keeps its value, or COMP's fault sets it. -/
theorem faultBitIsSticky : Obligations.FaultBitIsSticky := by
  intro s t hr h
  have hf : t.faultDz = s.faultDz ∨ (t.faultDz = true ∧ s.fsm = .sComp ∧ ∃ d, s.compensation = .divByZero d) := by
    rcases step_cases_of_not_reset hr h with rfl | ⟨rest, v, hc, rfl⟩ | ⟨v, hm, rfl⟩
    · exact .inl rfl
    · exact .inl (v.enter_faultDz.trans hc.faultDz_eq)
    · simpa using hm.faultDz_cases
  rcases hf with hf | ⟨ht, hcomp⟩
  · exact ⟨fun hs => hf.trans hs, fun hs ht => by simp [hf, hs] at ht⟩
  · exact ⟨fun _ => ht, fun _ _ => hcomp⟩

/-! ### The trace (R38) -/

/-- R38's answer events. -/
def Event.IsAnswer (ev : Event) : Prop :=
  ev = .wOk ∨ (∃ e, ev = .wErr e) ∨ (∃ b, ev = .rOk b) ∨ (∃ e, ev = .rErr e) ∨ ev = .dDone

/-- The events of the block's own requests (R74, R75, R146): RD_CAL's is at `stg_addr`, the others at `dev_addr`. -/
def State.IsIssue (s : State) (ev : Event) : Prop :=
  ev = .r s.stgAddr 0xAA 22 ∨ ev = .w s.devAddr 0xF4 [0x2E] ∨ ev = .r s.devAddr 0xF6 2 ∨
  ev = .w s.devAddr 0xF4 [0x34 ||| (s.oss.setWidth 8 <<< 6)] ∨ ev = .r s.devAddr 0xF6 3 ∨
  ev = .d (modeTable s.oss).tConvT

theorem modeTable_pcmd (oss : U2) : (modeTable oss).pcmd = 0x34 ||| (oss.setWidth 8 <<< 6) := by
  revert oss; decide

theorem modeTable_tConvP (oss : U2) : (modeTable oss).tConvP = (modeTable oss).tConvT := by
  revert oss; decide

/-- R140's request column holds the block's own requests only. -/
theorem State.isIssue_of_entryRequest {s : State} {r : Request} (h : s.entryRequest = some r) :
    s.IsIssue r.issueEvent := by
  cases hf : s.fsm <;> simp only [State.entryRequest, hf, Option.some.injEq, reduceCtorEq] at h <;> subst h
  case sRdCal => exact .inl rfl
  case sWrTcmd => exact .inr (.inl rfl)
  case sRdT => exact .inr (.inr (.inl rfl))
  case sWrPcmd =>
    refine .inr (.inr (.inr (.inl ?_)))
    rw [← modeTable_pcmd]; rfl
  case sRdP => exact .inr (.inr (.inr (.inr (.inl rfl))))
  case sDlyT => exact .inr (.inr (.inr (.inr (.inr rfl))))
  case sDlyP => exact .inr (.inr (.inr (.inr (.inr (congrArg Event.d (modeTable_tConvP s.oss))))))

/-- Entering a state appends at most the issue of its own request. -/
theorem State.enter_trace (s : State) :
    ∃ issue : Option Event, s.enter.trace = s.trace ++ issue.toList ∧ ∀ ev ∈ issue, s.enter.IsIssue ev := by
  obtain h | ⟨r, -, hr, h⟩ := s.enter_cases
  · exact ⟨none, by simp [h], by simp⟩
  · refine ⟨some r.issueEvent, by simp [h], ?_⟩
    simpa [State.IsIssue] using State.isIssue_of_entryRequest hr

/-- `v`'s trace is `s`'s with at most one answer appended. -/
def State.AppendsAnswer (s v : State) : Prop :=
  ∃ answer : Option Event, v.trace = s.trace ++ answer.toList ∧ ∀ ev ∈ answer, ev.IsAnswer

theorem State.AppendsAnswer.of_eq {s v : State} (h : v.trace = s.trace) : s.AppendsAnswer v :=
  ⟨none, by simp [h], by simp⟩

theorem State.AppendsAnswer.of_answer {s v : State} {ev : Event} (h : v.trace = s.trace ++ [ev]) (he : ev.IsAnswer) :
    s.AppendsAnswer v :=
  ⟨some ev, h, by simpa using he⟩

theorem CommandCase.trace_eq {s v : State} (h : CommandCase s v) : v.trace = s.trace := by
  cases h <;> rfl

/-- A micro-operation whose request is already pending appends at most one answer. -/
theorem MicroOpCase.appendsAnswer {s v : State} (h : MicroOpCase s v) (hp : s.PendMatchesFsm) :
    s.AppendsAnswer v := by
  cases h with
  | issues r hn hr => exact absurd (hn.symm.trans (hp.trans hr)) (by simp)
  | holds _ _ inputs => exact .of_eq rfl
  | initCommits block rest hf => exact .of_answer rfl (by simp [Event.IsAnswer])
  | initAborts e rest hf => exact .of_answer rfl (by simp [Event.IsAnswer])
  | moves ev rest f hf =>
    refine .of_answer rfl ?_
    rcases hf with ⟨-, -, rfl⟩ | ⟨-, -, rfl⟩ | ⟨-, -, rfl⟩ | ⟨-, -, rfl⟩ <;> simp [Event.IsAnswer]
  | stagesT b rest hf => exact .of_answer rfl (by simp [Event.IsAnswer])
  | stagesP b rest hf => exact .of_answer rfl (by simp [Event.IsAnswer])
  | measureAborts p e ev rest hf =>
    refine .of_answer rfl ?_
    rcases hf with ⟨-, -, rfl⟩ | ⟨-, -, rfl⟩ | ⟨-, -, rfl⟩ | ⟨-, -, rfl⟩ <;> simp [Event.IsAnswer]
  | measureCommits dp hf hd => exact .of_eq rfl
  | compFaults d hf hd => exact .of_eq rfl

/-- Settles O42: the operation appends at most one answer, and entering the next state at most one issue. -/
theorem traceGrowsOnlyByTheBlocksRequests : Obligations.TraceGrowsOnlyByTheBlocksRequests := by
  rintro s t ⟨-, -, hp, -, -⟩ hr h
  obtain ⟨answer, issue, ht, ha, hi⟩ : ∃ answer issue : Option Event,
      t.trace = s.trace ++ answer.toList ++ issue.toList ∧ (∀ ev ∈ answer, ev.IsAnswer) ∧
      ∀ ev ∈ issue, t.IsIssue ev := by
    rcases step_cases_of_not_reset hr h with rfl | ⟨rest, v, hc, rfl⟩ | ⟨v, hm, rfl⟩
    · exact ⟨none, none, by simp, by simp, by simp⟩
    · obtain ⟨issue, ht, hi⟩ := v.enter_trace
      exact ⟨none, issue, by simp [ht, hc.trace_eq], by simp, hi⟩
    · obtain ⟨answer, hv, ha⟩ := hm.appendsAnswer hp
      obtain ⟨issue, ht, hi⟩ := v.enter_trace
      exact ⟨answer, issue, by rw [ht, hv], ha, hi⟩
  exact ⟨answer.toList, issue.toList, ht, by cases answer <;> simp, by cases issue <;> simp,
    fun ev he => ha ev (Option.mem_toList.mp he), fun ev he => hi ev (Option.mem_toList.mp he)⟩

/-! ### The last status (R31) -/

/-- Whatever `v` has responded since `s`, it is the status word that `last_status` holds now. -/
def State.RespondsLastStatus (s v : State) : Prop :=
  v.responses = s.responses ∨ ∃ x : Response, x.status = v.lastStatus ∧ v.responses = s.responses ++ [x]

theorem CommandCase.respondsLastStatus {s v : State} (h : CommandCase s v) : s.RespondsLastStatus v := by
  cases h with
  | initStarts a m hc hm => exact .inl rfl
  | measureStarts hc => exact .inl rfl
  | _ => exact .inr ⟨_, rfl, rfl⟩

theorem MicroOpCase.respondsLastStatus {s v : State} (h : MicroOpCase s v) : s.RespondsLastStatus v := by
  cases h with
  | issues r hp hr => exact .inl rfl
  | holds hp hr inputs => exact .inl rfl
  | moves ev rest f hf => exact .inl rfl
  | stagesT b rest hf => exact .inl rfl
  | stagesP b rest hf => exact .inl rfl
  | _ => exact .inr ⟨_, rfl, rfl⟩

theorem State.RespondsLastStatus.enter {s v : State} (h : s.RespondsLastStatus v) : s.RespondsLastStatus v.enter := by
  simpa [State.RespondsLastStatus] using h

/-- Settles O46: every response is written to `last_status` first, or read from it (GET_STATUS). -/
theorem lastStatusIsTheLastResponse : Obligations.LastStatusIsTheLastResponse := by
  intro s t r hr h ht
  have hl : s.RespondsLastStatus t := by
    rcases step_cases_of_not_reset hr h with rfl | ⟨rest, v, hc, rfl⟩ | ⟨v, hm, rfl⟩
    · exact .inl rfl
    · exact State.RespondsLastStatus.enter (s := s) hc.respondsLastStatus
    · exact hm.respondsLastStatus.enter
  rcases hl with hl | ⟨x, hx, hl⟩
  · simp [hl] at ht
  · obtain rfl : x = r := by simpa [hl] using ht
    exact hx.symm

end Sys2Proof.Machine

/-! PROOFS. The invariants of the block's state (R41, R35, R122, R84): after reset, and kept by every step. -/

namespace Sys2Proof.Machine

open Sys2Proof

/-- Settles O9: `State.reset` gives these fields R40's values by definition. -/
theorem resetStateHasTheSpecValues : Obligations.ResetStateHasTheSpecValues :=
  ⟨rfl, rfl, rfl, rfl, rfl, rfl, rfl, rfl⟩

/-- R84 to R87: the reset value of `last_status` is no reserved word. -/
theorem legalStatus_reset : LegalStatus State.reset.lastStatus := by decide

/-- Settles O36: the FSM is `UNCAL` with every flag 0 and nothing pending. -/
theorem resetStateMeetsTheInvariants : Obligations.ResetStateMeetsTheInvariants :=
  ⟨by decide, by decide, rfl, by decide, legalStatus_reset⟩

/-! ### `cal_valid` and the FSM (R41.1) -/

theorem CommandCase.keeps_calMatchesFsm {s v : State} (h : CommandCase s v) (hs : s.CalMatchesFsm) :
    v.CalMatchesFsm := by
  cases h with
  | initStarts a m hc hm => simp [State.CalMatchesFsm, hc]
  | measureStarts hc => simp [State.CalMatchesFsm, hc]
  | _ => exact hs

/-- A micro-operation of a MEASURE runs on a calibrated handle, so what it moves to must not be `UNCAL` or `S_RD_CAL`;
RD_CAL ends in both ways. -/
theorem MicroOpCase.keeps_calMatchesFsm {s v : State} (h : MicroOpCase s v) (hs : s.CalMatchesFsm) :
    v.CalMatchesFsm := by
  have of_measure (hu : s.fsm ≠ .uncal) (hr : s.fsm ≠ .sRdCal) {f : Fsm} (hf : f ≠ .uncal ∧ f ≠ .sRdCal) :
      s.calValid = true ↔ f ≠ .uncal ∧ f ≠ .sRdCal := by
    simp [hs.mpr ⟨hu, hr⟩, hf]
  cases h with
  | issues r hp hr => exact hs
  | holds hp hr inputs => exact hs
  | initCommits block rest hf => simp [State.CalMatchesFsm, State.commitInit]
  | initAborts e rest hf =>
    have hc : s.calValid ≠ true := fun hc => (hs.mp hc).2 hf
    simpa [State.CalMatchesFsm, State.abort_eq] using hc
  | moves ev rest f hf =>
    refine of_measure ?_ ?_ ?_ <;>
    rcases hf with ⟨hf, rfl, -⟩ | ⟨hf, rfl, -⟩ | ⟨hf, rfl, -⟩ | ⟨hf, rfl, -⟩ <;> simp [hf]
  | stagesT b rest hf => exact of_measure (by simp [hf]) (by simp [hf]) (by simp)
  | stagesP b rest hf => exact of_measure (by simp [hf]) (by simp [hf]) (by simp)
  | measureAborts p e ev rest hf =>
    refine of_measure ?_ ?_ (f := .ready) (by simp) <;>
    rcases hf with ⟨hf, -⟩ | ⟨hf, -⟩ | ⟨hf, -⟩ | ⟨hf, -⟩ <;> simp [hf]
  | measureCommits dp hf hd => exact of_measure (by simp [hf]) (by simp [hf]) (f := .ready) (by simp)
  | compFaults d hf hd => exact of_measure (by simp [hf]) (by simp [hf]) (f := .ready) (by simp)

/-! ### A reading needs a calibration (R41.2) -/

theorem CommandCase.keeps_readingNeedsCal {s v : State} (h : CommandCase s v) (hs : s.ReadingNeedsCal) :
    v.ReadingNeedsCal := by
  cases h <;> exact hs

/-- COMP, which sets `rd_valid`, runs on a calibrated handle. -/
theorem MicroOpCase.keeps_readingNeedsCal {s v : State} (h : MicroOpCase s v) (hc : s.CalMatchesFsm)
    (hs : s.ReadingNeedsCal) : v.ReadingNeedsCal := by
  cases h with
  | initCommits block rest hf => exact fun _ => rfl
  | measureCommits dp hf hd => exact fun _ => hc.mpr (by simp [hf])
  | _ => exact hs

/-! ### The last status word (R122, R84) -/

/-- `last_status` shows the current flags and holds no reserved code. -/
def State.StatusInv (s : State) : Prop := s.StatusShowsFlags ∧ LegalStatus s.lastStatus

/-- R100: the end of a command writes a status word with the current flags. -/
theorem State.endCommand_statusInv {c : OutcomeCode} {p : StepCode} {k : Option BusClass} (s : State) (d : Data)
    (hp : p ≠ .dlyT ∧ p ≠ .dlyP) (hk : k.isSome = c.wrapsBusError) : (s.endCommand c p k d).StatusInv :=
  ⟨statusWord_flags _ _ _ _ _ _, legalStatus_statusWord hp hk _ _ _⟩

theorem State.raiseFail_statusInv {c : OutcomeCode} {p : StepCode} {k : Option BusClass} (s : State)
    (e : Option BusError) (f : Fsm) (hp : p ≠ .dlyT ∧ p ≠ .dlyP) (hk : k.isSome = c.wrapsBusError) :
    (s.raiseFail c p k e f).StatusInv :=
  State.endCommand_statusInv _ _ hp hk

theorem State.enter_statusInv {s : State} (h : s.StatusInv) : s.enter.StatusInv := by
  simpa [State.StatusInv, State.StatusShowsFlags] using h

/-- R199: the pipeline's two divisors are those of T2 and P11. -/
theorem compensate_divByZero {c : Cal} {oss : U2} {ut : S32} {up : U32} {d : StepCode}
    (h : compensate c oss ut up = .divByZero d) : d = .compT ∨ d = .compP := by
  simp only [compensate] at h
  split at h
  · injection h with h; exact .inl h.symm
  · split at h
    · injection h with h; exact .inr h.symm
    · cases h

theorem CommandCase.keeps_statusInv {s v : State} (h : CommandCase s v) (hs : s.StatusInv) : v.StatusInv := by
  cases h with
  | initStarts a m hc hm => exact hs
  | measureStarts hc => exact hs
  | rejects c hc =>
    refine State.raiseFail_statusInv _ _ _ (by simp) ?_
    rcases hc with rfl | rfl | rfl | rfl | rfl <;> rfl
  | answers d => exact State.endCommand_statusInv _ _ (by simp) rfl
  | status => exact hs

theorem MicroOpCase.keeps_statusInv {s v : State} (h : MicroOpCase s v) (hs : s.StatusInv) : v.StatusInv := by
  cases h with
  | initCommits block rest hf => exact State.endCommand_statusInv _ _ (by simp) rfl
  | initAborts e rest hf => exact State.raiseFail_statusInv _ _ _ (by simp) rfl
  | measureAborts p e ev rest hf =>
    refine State.raiseFail_statusInv _ _ _ ?_ rfl
    rcases hf with ⟨-, rfl, -⟩ | ⟨-, rfl, -⟩ | ⟨-, rfl, -⟩ | ⟨-, rfl, -⟩ <;> simp
  | measureCommits dp hf hd => exact State.endCommand_statusInv _ _ (by simp) rfl
  | compFaults d hf hd =>
    refine State.raiseFail_statusInv _ _ _ ?_ rfl
    rcases compensate_divByZero hd with rfl | rfl <;> simp
  | _ => exact hs

/-! ### Every step -/

/-- The invariants of `State.Inv` but the one about `pend`. None of them reads `pend`, `trace` or `inputs`. -/
structure State.FlagsInv (s : State) : Prop where
  cal     : s.CalMatchesFsm
  reading : s.ReadingNeedsCal
  status  : s.StatusInv

theorem State.inv_iff (s : State) : s.Inv ↔ s.FlagsInv ∧ s.PendMatchesFsm :=
  ⟨fun ⟨hc, hr, hp, hs⟩ => ⟨⟨hc, hr, hs⟩, hp⟩, fun ⟨⟨hc, hr, hs⟩, hp⟩ => ⟨hc, hr, hp, hs⟩⟩

theorem State.FlagsInv.enter {s : State} (h : s.FlagsInv) : s.enter.FlagsInv where
  cal := by simpa [State.CalMatchesFsm] using h.cal
  reading := by simpa [State.ReadingNeedsCal] using h.reading
  status := State.enter_statusInv h.status

theorem CommandCase.keeps_flagsInv {s v : State} (h : CommandCase s v) (hs : s.FlagsInv) : v.FlagsInv :=
  ⟨h.keeps_calMatchesFsm hs.cal, h.keeps_readingNeedsCal hs.reading, h.keeps_statusInv hs.status⟩

theorem MicroOpCase.keeps_flagsInv {s v : State} (h : MicroOpCase s v) (hs : s.FlagsInv) : v.FlagsInv :=
  ⟨h.keeps_calMatchesFsm hs.cal, h.keeps_readingNeedsCal hs.cal hs.reading, h.keeps_statusInv hs.status⟩

theorem State.reset_flagsInv : State.reset.FlagsInv :=
  ((State.inv_iff _).mp resetStateMeetsTheInvariants).1

theorem State.FlagsInv.withInputs {s : State} (h : s.FlagsInv) (inputs : List Input) :
    { s with inputs := inputs }.FlagsInv :=
  ⟨h.cal, h.reading, h.status⟩

theorem step_keeps_flagsInv {s t : State} (hs : s.FlagsInv) (h : step s = .next t) : t.FlagsInv := by
  rcases step_cases h with ⟨rest, -, rfl⟩ | ⟨-, -, rfl⟩ | ⟨w, rest, v, -, -, hc, rfl⟩ | ⟨-, v, hm, rfl⟩
  · exact ⟨State.reset_flagsInv.cal, State.reset_flagsInv.reading, State.reset_flagsInv.status⟩
  · exact hs.withInputs _
  · exact (hc.keeps_flagsInv (hs.withInputs rest)).enter
  · exact (hm.keeps_flagsInv hs).enter

/-- Settles O37: a step keeps the invariants about the flags, and `pend` the request of the FSM state. -/
theorem everyStepKeepsTheInvariants : Obligations.EveryStepKeepsTheInvariants := by
  intro s t hs h
  obtain ⟨hf, hp⟩ := s.inv_iff.mp hs
  exact t.inv_iff.mpr ⟨step_keeps_flagsInv hf h, step_keeps_pendMatchesFsm hp h⟩

end Sys2Proof.Machine

/-! PROOFS. R63: the host-visible state (R39) changes only with a response. -/

namespace Sys2Proof.Machine

open Sys2Proof

@[simp] theorem State.enter_hostView (s : State) : s.enter.hostView = s.hostView := by simp [State.hostView]

/-- `v` shows the host what `s` showed, or it has one response more. -/
def State.ShowsSameOrResponds (s v : State) : Prop :=
  v.hostView = s.hostView ∨ ∃ x, v.responses = s.responses ++ [x]

/-- A command that starts a bus sequence writes only the FSM and the staging fields; every other one responds. -/
theorem CommandCase.showsSameOrResponds {s v : State} (h : CommandCase s v) : s.ShowsSameOrResponds v := by
  cases h with
  | initStarts a m hc hm => exact .inl rfl
  | measureStarts hc => exact .inl rfl
  | _ => exact .inr ⟨_, rfl⟩

/-- A micro-operation that goes on writes only the FSM, the staging fields and the boundary; commits, aborts and faults
respond. -/
theorem MicroOpCase.showsSameOrResponds {s v : State} (h : MicroOpCase s v) : s.ShowsSameOrResponds v := by
  cases h with
  | issues r hp hr => exact .inl rfl
  | holds hp hr inputs => exact .inl rfl
  | moves ev rest f hf => exact .inl rfl
  | stagesT b rest hf => exact .inl rfl
  | stagesP b rest hf => exact .inl rfl
  | _ => exact .inr ⟨_, rfl⟩

theorem State.ShowsSameOrResponds.enter {s v : State} (h : s.ShowsSameOrResponds v) :
    s.ShowsSameOrResponds v.enter := by
  simpa [State.ShowsSameOrResponds] using h

theorem step_showsSameOrResponds {s t : State} (hr : ¬ s.resetNext) (h : step s = .next t) :
    s.ShowsSameOrResponds t := by
  rcases step_cases_of_not_reset hr h with rfl | ⟨rest, v, hc, rfl⟩ | ⟨v, hm, rfl⟩
  · exact .inl rfl
  · exact State.ShowsSameOrResponds.enter (s := s) hc.showsSameOrResponds
  · exact hm.showsSameOrResponds.enter

/-- Settles O44: every step shows what was shown before or responds, and here it does not respond. -/
theorem nothingVisibleChangesBeforeTheResponse : Obligations.NothingVisibleChangesBeforeTheResponse := by
  intro s t hr h ht
  refine (step_showsSameOrResponds hr h).resolve_right ?_
  rintro ⟨x, hx⟩
  simp [hx] at ht

end Sys2Proof.Machine

/-! PROOFS. R80's table read off the decoder, and the two directions of the encoding (R72 to R75, R79 to R82, R88,
R89). -/

namespace Sys2Proof

/-- Settles O1: `Laws.EncodingRoundTrip` has the round trip of each instruction. -/
theorem decodeOfEncodeIsTheInstruction : Obligations.DecodeOfEncodeIsTheInstruction := fun i =>
  match i with
  | .init a m => Laws.EncodingRoundTrip.init a m
  | .measure => Laws.EncodingRoundTrip.measure
  | .getTemp => Laws.EncodingRoundTrip.getTemp
  | .getPress => Laws.EncodingRoundTrip.getPress
  | .getCal => Laws.EncodingRoundTrip.getCal
  | .getStatus => Laws.EncodingRoundTrip.getStatus
  | .illegal w => Laws.EncodingRoundTrip.illegal w
  | .rdCal => Laws.EncodingRoundTrip.rdCal
  | .wrTcmd => Laws.EncodingRoundTrip.wrTcmd
  | .dlyT mm => Laws.EncodingRoundTrip.dlyT mm
  | .rdT => Laws.EncodingRoundTrip.rdT
  | .wrPcmd mm => Laws.EncodingRoundTrip.wrPcmd mm
  | .dlyP mm => Laws.EncodingRoundTrip.dlyP mm
  | .rdP => Laws.EncodingRoundTrip.rdP
  | .comp => Laws.EncodingRoundTrip.comp

/-! ### Host words (R79 to R82) -/

/-- `decode` of a host image is `decodeHost`. -/
theorem decodeHost_eq_of_decode {w : U32} {i : Instr} (h : decode (.host w) = .ok i) : decodeHost w = i :=
  Except.ok.inj h

theorem HostRow.takes_iff (r : HostRow) (w : U32) : r.takes w = true ↔ w &&& r.wordMask = r.wordMatch :=
  beq_iff_eq

/-- The words of R80's table: INIT's, by their fields, and the five single words. -/
theorem isCommandWord_iff (w : U32) :
    isCommandWord w = true ↔
      (slice w 0 8 = 0x01 ∧ slice w 24 8 = 0) ∨ w = 0x02 ∨ w = 0x03 ∨ w = 0x04 ∨ w = 0x05 ∨ w = 0x06 := by
  simp only [isCommandWord, hostRows, List.any_cons, List.any_nil, Bool.or_false, Bool.or_eq_true, takes_init,
    takes_full]

theorem decodeHost_of_initFields {w : U32} (h : slice w 0 8 = 0x01 ∧ slice w 24 8 = 0) :
    decodeHost w = .init (slice w 8 8) (slice w 16 8) :=
  if_pos h

/-- R80: "Every other word is illegal". -/
theorem decodeHost_of_not_command {w : U32} (h : isCommandWord w = false) : decodeHost w = .illegal w :=
  decodeHost_eq_of_decode (decodeOfEncodeIsTheInstruction (.illegal w) (by simp [Instr.wellFormed, h]))

/-- Settles O3: INIT's row by its fields, the full-mask rows by their one word, and the rest by `isCommandWord`. -/
theorem opcodeTableDecidesEveryWord : Obligations.OpcodeTableDecidesEveryWord := by
  intro w
  have row {c : U32} {i : Instr} (hd : decodeHost c = i) (h : w &&& 0xFFFFFFFF = c) : decodeHost w = i := by
    rwa [(takes_full c w).mp ((HostRow.takes_iff _ w).mpr h)]
  refine ⟨fun h => decodeHost_of_initFields ((takes_init w).mp ((HostRow.takes_iff _ w).mpr h)), row (by decide),
    row (by decide), row (by decide), row (by decide), row (by decide), fun h1 h2 h3 h4 h5 h6 => ?_⟩
  apply decodeHost_of_not_command
  simp only [isCommandWord, hostRows, List.any_cons, List.any_nil, Bool.or_false, ← Bool.not_eq_true, Bool.or_eq_true,
    HostRow.takes_iff, not_or]
  exact ⟨h1, h2, h3, h4, h5, h6⟩

/-! ### The image of a decoded instruction -/

/-- Two adjoining slices (R7) are one. -/
theorem slice_append_slice {n : Nat} (v : BitVec n) (lo k m : Nat) :
    slice v (lo + m) k ++ slice v lo m = slice v lo (k + m) :=
  BitVec.extractLsb'_append_extractLsb'_eq_extractLsb' rfl

theorem slice_self {n : Nat} (v : BitVec n) : slice v 0 n = v :=
  BitVec.extractLsb'_eq_self

/-- A 32-bit word is its four bytes. -/
theorem append_bytes (w : U32) : slice w 24 8 ++ slice w 16 8 ++ slice w 8 8 ++ slice w 0 8 = w := by
  rw [slice_append_slice w 16 8 8, slice_append_slice w 8 16 8, slice_append_slice w 0 24 8, slice_self]

theorem encode_init_of_initFields {w : U32} (h : slice w 0 8 = 0x01 ∧ slice w 24 8 = 0) :
    encode (.init (slice w 8 8) (slice w 16 8)) = .host w := by
  obtain ⟨hop, hz⟩ := h
  rw [encode, ← hop, ← hz, append_bytes]

/-- R79 to R82: what a host word decodes to has that word as its image. -/
theorem encode_decodeHost (w : U32) : encode (decodeHost w) = .host w ∧ (decodeHost w).wellFormed = true := by
  cases hc : isCommandWord w with
  | false => rw [decodeHost_of_not_command hc]; exact ⟨rfl, by simp [Instr.wellFormed, hc]⟩
  | true =>
    rcases (isCommandWord_iff w).mp hc with h | rfl | rfl | rfl | rfl | rfl
    · rw [decodeHost_of_initFields h]; exact ⟨encode_init_of_initFields h, rfl⟩
    all_goals decide

/-- R73: a byte with the bits 5:0 of a pressure command is the one of the mode in its bits 7:6. -/
theorem pressureCommand_of_slice {b : U8} (h : slice b 0 6 = 0b110100) : pressureCommand (slice b 6 2) = b := by
  rw [pressureCommand, ← h, slice_append_slice b 0 2 6, slice_self]

theorem encode_of_decodeWrite {reg payload : U8} {i : Instr} (h : decodeWrite reg payload = .ok i) :
    encode i = .busWrite reg payload ∧ i.wellFormed = true := by
  unfold decodeWrite at h
  split_ifs at h with ht hp
  · obtain ⟨rfl, rfl⟩ := ht
    cases h
    exact ⟨rfl, rfl⟩
  · obtain ⟨rfl, hp⟩ := hp
    cases h
    exact ⟨by rw [encode, pressureCommand_of_slice hp], rfl⟩

theorem encode_of_decodeRead {reg count : U8} {i : Instr} (h : decodeRead reg count = .ok i) :
    encode i = .busRead reg count ∧ i.wellFormed = true := by
  unfold decodeRead at h
  split_ifs at h with hb hb hb
  all_goals
    obtain ⟨rfl, rfl⟩ := hb
    cases h
    exact ⟨rfl, rfl⟩

theorem encode_of_decodeDelay {stepCode : U4} {mm : U2} {i : Instr} (h : decodeDelay stepCode mm = .ok i) :
    encode i = .delay stepCode mm ∧ i.wellFormed = true := by
  unfold decodeDelay at h
  split_ifs at h with hb hb
  all_goals
    subst hb
    cases h
    exact ⟨rfl, rfl⟩

theorem encode_of_decodeInternal {fsmCode : U4} {i : Instr} (h : decodeInternal fsmCode = .ok i) :
    encode i = .internal fsmCode ∧ i.wellFormed = true := by
  unfold decodeInternal at h
  split_ifs at h with hb
  subst hb
  cases h
  exact ⟨rfl, rfl⟩

/-- Settles O2: one lemma for each format of an image. -/
theorem encodeOfDecodeIsTheImage : Obligations.EncodeOfDecodeIsTheImage := by
  intro c i h
  cases c with
  | host w => exact decodeHost_eq_of_decode h ▸ encode_decodeHost w
  | busWrite reg payload => exact encode_of_decodeWrite h
  | busRead reg count => exact encode_of_decodeRead h
  | delay stepCode mm => exact encode_of_decodeDelay h
  | internal fsmCode => exact encode_of_decodeInternal h

/-- Settles O4: each word is decoded bit by bit. -/
theorem writtenOutWordsDecode : Obligations.WrittenOutWordsDecode := by
  unfold Obligations.WrittenOutWordsDecode
  decide

/-! ### Assembled lines (R90) -/

/-- R90's INIT word has the four bytes of R79. -/
theorem assemble_init (a m : U8) :
    AsmLine.assemble (.init a m) = (0 : U8) ++ m ++ a ++ (0x01 : U8) := by
  apply BitVec.eq_of_getLsbD_eq
  intro i hi
  simp only [AsmLine.assemble, BitVec.getLsbD_or, Machine.getLsbD_field _ _ hi, BitVec.getLsbD_append]
  interval_cases i <;> simp

/-- A byte appended below a word, as numbers. -/
theorem toNat_append_byte {n : Nat} (x : BitVec n) (y : U8) : (x ++ y).toNat = x.toNat * 2 ^ 8 + y.toNat := by
  rw [BitVec.toNat_append, ← Nat.shiftLeft_add_eq_or_of_lt y.isLt, Nat.shiftLeft_eq]

/-- INIT's word as a number (R79). -/
theorem initWord_toNat (a m : U8) :
    ((0 : U8) ++ m ++ a ++ (0x01 : U8)).toNat = m.toNat * 2 ^ 16 + a.toNat * 2 ^ 8 + 1 := by
  simp only [toNat_append_byte, BitVec.ofNat_eq_ofNat, BitVec.toNat_ofNat]
  omega

/-- Settles O5: INIT's assembled word is the one its image holds, and each other mnemonic's is its row's. -/
theorem assembledLinesDecodeToTheirCommands : Obligations.AssembledLinesDecodeToTheirCommands := by
  refine ⟨fun a m => ?_, by decide, by decide, by decide, by decide, by decide, fun w => rfl⟩
  rw [assemble_init]
  exact ⟨decodeHost_eq_of_decode (decodeOfEncodeIsTheInstruction (.init a m) rfl), initWord_toNat a m⟩

end Sys2Proof

/-! PROOFS. The mode table's columns (R73, R76) and the width of `UP`. -/

namespace Sys2Proof.Machine

open Sys2Proof

/-- R178, R292: 24 bits shifted right by `8 - oss`. -/
theorem rawPressCount_lt (p : RawP) (oss : U2) : (rawPressCount p oss).toNat < 2 ^ (16 + oss.toNat) := by
  have h1 := p.msb.isLt
  have h2 := p.lsb.isLt
  have h3 := p.xlsb.isLt
  have ho := oss.isLt
  rw [rawPressCount_toNat, Nat.div_lt_iff_lt_mul (by positivity), ← pow_add,
    show 16 + oss.toNat + (8 - oss.toNat) = 24 by omega]
  omega

/-- Settles O7: column by column for each mode, and `rawPressCount_lt`. -/
theorem modeTableColumns : Obligations.ModeTableColumns := by
  refine ⟨by decide, fun oss =>
    ⟨modeTable_tConvP oss, modeTable_upShift oss, ?_, fun p => rawPressCount_lt p oss⟩⟩
  apply BitVec.eq_of_toNat_eq
  rw [modeTable_kB7, BitVec.toNat_ushiftRight, Nat.shiftRight_eq_div_pow]
  rfl

/-- R73 and R76 give the same pressure command byte. -/
theorem pressureCommand_eq_pcmd (mm : U2) : pressureCommand mm = (modeTable mm).pcmd := by
  revert mm; decide

/-- Settles O6: the fields are those of `pressureCommand`, and R149's request writes the table's byte. -/
theorem pressureCommandByte : Obligations.PressureCommandByte := by
  refine ⟨fun oss => ?_, by decide, by decide, by decide, by decide, fun s => ?_⟩
  · obtain ⟨hlow, hmode, -⟩ := pressureCommand_fields oss
    rw [pressureCommand_eq_pcmd] at hlow hmode
    exact ⟨modeTable_pcmd oss, hmode, hlow, rfl, pressureCommand_eq_pcmd oss⟩
  · rw [← modeTable_pcmd]; rfl

end Sys2Proof.Machine

/-! PROOFS. The status word as a number (R84). -/

namespace Sys2Proof.Machine

open Sys2Proof

/-- R84: a word is the sum of its fields at their places. -/
theorem toNat_eq_sum_fields (w : U32) :
    w.toNat = (statusCode w).toNat + 2 ^ 8 * (statusStep w).toNat + 2 ^ 12 * (statusBcls w).toNat +
      2 ^ 16 * (statusCal w).toNat + 2 ^ 17 * (statusRdv w).toNat + 2 ^ 18 * (statusFlt w).toNat +
      2 ^ 19 * (statusReserved w).toNat := by
  simp only [statusCode, statusStep, statusBcls, statusCal, statusRdv, statusFlt, statusReserved,
    BitVec.extractLsb'_toNat, Nat.shiftRight_eq_div_pow, BitVec.getLsbD, Nat.toNat_testBit]
  omega

/-- R100's status word is R84's. -/
theorem State.statusWord_eq_wordOf (s : State) (c : OutcomeCode) (p : StepCode) (k : Option BusClass) :
    s.statusWord c p k = s.wordOf c.code.toNat p.code.toNat (bclsField k).toNat := by
  obtain ⟨hcode, hstep, hbcls, hres⟩ := statusWord_fields c p k s.calValid s.rdValid s.faultDz
  obtain ⟨hcal, hrdv, hflt⟩ := statusWord_flags c p k s.calValid s.rdValid s.faultDz
  have h := toNat_eq_sum_fields (s.statusWord c p k)
  rw [State.statusWord, hcode, hstep, hbcls, hres, hcal, hrdv, hflt] at h
  calc
    s.statusWord c p k = BitVec.ofNat 32 (s.statusWord c p k).toNat := by rw [BitVec.ofNat_toNat, BitVec.setWidth_eq]
    _ = _ := congrArg (BitVec.ofNat 32) h

theorem bclsField_busErrorClass (e : BusError) : (bclsField (some (busErrorClass e))).toNat = bclsOf e := by
  unfold bclsOf
  cases busErrorClass e <;> rfl

/-- Settles O8: the sum is `State.statusWord_eq_wordOf`, and the fields read back. -/
theorem statusWordFields : Obligations.StatusWordFields := by
  intro s c p
  refine ⟨s.statusWord_eq_wordOf c p none, fun e => ?_, fun k => ?_⟩
  · rw [s.statusWord_eq_wordOf, bclsField_busErrorClass]
  · obtain ⟨hcode, hstep, hbcls, hres⟩ := statusWord_fields c p k s.calValid s.rdValid s.faultDz
    obtain ⟨hcal, hrdv, hflt⟩ := statusWord_flags c p k s.calValid s.rdValid s.faultDz
    exact ⟨hcode, hstep, hbcls, hcal, hrdv, hflt, hres⟩

end Sys2Proof.Machine

/-! PROOFS. A word of the opcode table that is placed is what the next step runs (notes/assumptions/6.md). -/

namespace Sys2Proof.Machine

open Sys2Proof

/-- A word of the opcode table decodes as the image it stands for. -/
theorem decodeTableWord_eq_some {nbits w : Nat} {i : Instr} (h : decodeTableWord nbits w = some i) :
    ∃ c, tableImage nbits w = some c ∧ decode c = .ok i := by
  unfold decodeTableWord at h
  split at h
  · cases h
  · next c hc =>
    split at h
    · next j hj => exact ⟨c, hc, hj.trans (congrArg Except.ok (Option.some.inj h))⟩
    · cases h

/-- The one pattern that stands for a host word is the word itself. -/
theorem tableImage_eq_host {nbits w : Nat} {v : U32} (h : tableImage nbits w = some (.host v)) :
    v = BitVec.ofNat 32 w := by
  unfold tableImage at h
  split_ifs at h <;> cases h
  rfl

/-- Where an instruction of the opcode table is placed: a command among the inputs, a micro-operation in the FSM state
that issues it. -/
theorem State.withFetchWord_cases {nbits w : Nat} {i : Instr} (s : State) (h : decodeTableWord nbits w = some i) :
    ((∃ v, encode i = .host v) ∧ s.withFetchWord nbits w = s.placeCommand (BitVec.ofNat 32 w)) ∨
    ∃ f mode, f.microOp (mode.getD s.oss) = some i ∧ s.withFetchWord nbits w = s.placeMicroOp f mode := by
  unfold State.withFetchWord
  rw [h]
  cases i with
  | init | measure | getTemp | getPress | getCal | getStatus | illegal => exact .inl ⟨⟨_, rfl⟩, rfl⟩
  | _ => exact .inr ⟨_, _, rfl, rfl⟩

theorem State.placeCommand_inputs (s : State) (w : U32) : (s.placeCommand w).inputs = .command w :: s.inputs := by
  unfold State.placeCommand; split <;> rfl

/-- R100: the word is placed in a stable state. -/
theorem State.placeCommand_isStable (s : State) (w : U32) : (s.placeCommand w).fsm.isStable = true := by
  unfold State.placeCommand
  split
  · assumption
  · cases s.calValid <;> rfl

theorem State.placeCommand_fetch (s : State) (w : U32) : ∃ t, (s.placeCommand w).fetch = .run (decodeHost w) t := by
  refine ⟨_, fetch_of_command (s.placeCommand_inputs w) fun hf => ?_⟩
  simpa [hf, Fsm.isStable] using s.placeCommand_isStable w

theorem State.placeMicroOp_fetch {f : Fsm} {mode : Option U2} {i : Instr} (s : State)
    (h : f.microOp (mode.getD s.oss) = some i) : (s.placeMicroOp f mode).fetch = .run i (s.placeMicroOp f mode) :=
  fetch_of_microOp h (by simp [State.placeMicroOp, State.resetNext]) (.inr (by simp [State.placeMicroOp]))

/-- The placed instruction is what `fetch` finds. -/
theorem State.withFetchWord_fetch {nbits w : Nat} {i : Instr} (s : State) (h : decodeTableWord nbits w = some i) :
    ∃ t, (s.withFetchWord nbits w).fetch = .run i t := by
  rcases s.withFetchWord_cases h with ⟨⟨v, hv⟩, hw⟩ | ⟨f, mode, hm, hw⟩
  · obtain ⟨c, hc, hd⟩ := decodeTableWord_eq_some h
    obtain rfl : .host v = c := hv.symm.trans (encodeOfDecodeIsTheImage c i hd).1
    rw [hw, ← decodeHost_eq_of_decode hd, tableImage_eq_host hc]
    exact s.placeCommand_fetch _
  · exact ⟨_, by rw [hw, s.placeMicroOp_fetch hm]⟩

/-- Settles O35: the step runs what `fetch` finds. -/
theorem placedWordIsRunNext : Obligations.PlacedWordIsRunNext := by
  intro s nbits w i h
  obtain ⟨t, ht⟩ := s.withFetchWord_fetch h
  exact ⟨t, ht, step_of_fetch_run ht⟩

end Sys2Proof.Machine

/-! PROOFS. What the host commands do in a stable state (R101 to R126), and the step that runs a command word (R100). -/

namespace Sys2Proof.Machine

open Sys2Proof

/-! ### How a command ends (R100) -/

/-- The end of a command that wraps no bus error and names no step: it writes `last_status` and responds. -/
theorem State.endCommand_eq {c : OutcomeCode} (hc : c.wrapsBusError = false) (d : Data) (s : State) :
    s.endCommand c .noStep none d = { s with
      lastStatus := s.wordOf c.code.toNat 0 0
      responses := s.responses ++ [⟨s.wordOf c.code.toNat 0 0, d, none⟩] } := by
  have hw : s.statusWord c .noStep none = s.wordOf c.code.toNat 0 0 := s.statusWord_eq_wordOf c .noStep none
  simp [State.endCommand, State.respond, hc, hw]

/-- R244: a rejection writes `last_bus_error` and `fsm` with their own values, so it is the mere end of the command. -/
theorem State.reject_eq_endCommand (c : OutcomeCode) (s : State) : s.reject c = s.endCommand c .noStep none .none := rfl

theorem hostCommand_eq_next {body : State → State} {s t : State} (hs : s.fsm.isStable = true) (hb : body s = t) :
    hostCommand body s = .next t :=
  hb ▸ hostCommand_of_stable hs

/-! ### The branches of each command -/

theorem State.init_of_calibrated {s : State} (a m : U8) (hc : s.calValid = true) :
    s.init a m = s.reject .alreadyInitialized :=
  if_pos hc

theorem State.init_of_illegal_mode {s : State} (a : U8) {m : U8} (hc : s.calValid = false) (hm : 3 < m.toNat) :
    s.init a m = s.reject .modeInvalid := by
  simp [State.init, hc, hm]

theorem State.init_of_legal_mode {s : State} (a : U8) {m : U8} (hc : s.calValid = false) (hm : m.toNat ≤ 3) :
    s.init a m = { s with stgAddr := a, stgMode := m.setWidth 2, fsm := .sRdCal } := by
  simp [State.init, hc, Nat.not_lt.mpr hm, State.goto]

theorem State.measure_of_calibrated {s : State} (hc : s.calValid = true) : s.measure = s.goto .sWrTcmd :=
  if_pos hc

theorem State.measure_of_uncalibrated {s : State} (hc : s.calValid = false) : s.measure = s.reject .notCalibrated := by
  simp [State.measure, hc]

theorem State.getTemp_of_reading {s : State} (hr : s.rdValid = true) :
    s.getTemp = s.endCommand .ok .noStep none (.temp s.tempTenths) :=
  if_pos hr

theorem State.getTemp_of_no_reading {s : State} (hr : s.rdValid = false) : s.getTemp = s.reject .noReading := by
  simp [State.getTemp, hr]

theorem State.getPress_of_reading {s : State} (hr : s.rdValid = true) :
    s.getPress = s.endCommand .ok .noStep none (.press s.pressure) :=
  if_pos hr

theorem State.getPress_of_no_reading {s : State} (hr : s.rdValid = false) : s.getPress = s.reject .noReading := by
  simp [State.getPress, hr]

theorem State.getCal_of_calibrated {s : State} (hc : s.calValid = true) :
    s.getCal = s.endCommand .ok .noStep none (.cal s.cal.patterns) :=
  if_pos hc

theorem State.getCal_of_uncalibrated {s : State} (hc : s.calValid = false) : s.getCal = s.reject .notCalibrated := by
  simp [State.getCal, hc]

/-! ### The commands -/

/-- Settles O12: the branches of `State.init`; the low two bits of `M` are `M` modulo 4. -/
theorem initChecksThenStages : Obligations.InitChecksThenStages := by
  refine fun s a m hs => ⟨fun hc => ?_, fun hc hm => ?_, fun hc hm => ?_⟩
  · exact hostCommand_eq_next hs ((State.init_of_calibrated a m hc).trans (State.endCommand_eq rfl .none s))
  · exact hostCommand_eq_next hs ((State.init_of_illegal_mode a hc hm).trans (State.endCommand_eq rfl .none s))
  · exact hostCommand_eq_next hs (State.init_of_legal_mode a hc hm)

/-- Settles O13: the branches of `State.measure`. -/
theorem measureStartsOrIsRejected : Obligations.MeasureStartsOrIsRejected := by
  refine fun s hs => ⟨fun hc => ?_, fun hc => ?_⟩
  · exact hostCommand_eq_next hs (State.measure_of_calibrated hc)
  · exact hostCommand_eq_next hs ((State.measure_of_uncalibrated hc).trans (State.endCommand_eq rfl .none s))

/-- Settles O14: the branches of `State.getTemp`. -/
theorem getTempReturnsTheReading : Obligations.GetTempReturnsTheReading := by
  refine ⟨by decide, fun s hs => ⟨fun hr => ?_, fun hr => ?_⟩⟩
  · exact hostCommand_eq_next hs ((State.getTemp_of_reading hr).trans (State.endCommand_eq rfl _ s))
  · exact hostCommand_eq_next hs ((State.getTemp_of_no_reading hr).trans (State.endCommand_eq rfl .none s))

/-- Settles O15: the branches of `State.getPress`. -/
theorem getPressReturnsTheReading : Obligations.GetPressReturnsTheReading := by
  refine ⟨by decide, fun s hs => ⟨fun hr => ?_, fun hr => ?_⟩⟩
  · exact hostCommand_eq_next hs ((State.getPress_of_reading hr).trans (State.endCommand_eq rfl _ s))
  · exact hostCommand_eq_next hs ((State.getPress_of_no_reading hr).trans (State.endCommand_eq rfl .none s))

/-- Settles O16: the branches of `State.getCal`; `Cal.patterns` lists the coefficients in index order. -/
theorem getCalReturnsTheCoefficients : Obligations.GetCalReturnsTheCoefficients := by
  refine ⟨by decide, fun s hs => ⟨fun hc => ?_, fun hc => ?_⟩⟩
  · exact hostCommand_eq_next hs ((State.getCal_of_calibrated hc).trans (State.endCommand_eq rfl _ s))
  · exact hostCommand_eq_next hs ((State.getCal_of_uncalibrated hc).trans (State.endCommand_eq rfl .none s))

/-- Settles O17: `State.getStatus` has one branch, and it only responds. -/
theorem getStatusReturnsLastStatus : Obligations.GetStatusReturnsLastStatus :=
  ⟨by decide, fun _ hs => hostCommand_of_stable hs⟩

/-- Settles O18: such a word decodes to ILLEGAL, whose meaning is a rejection. -/
theorem illegalWordChangesOnlyLastStatus : Obligations.IllegalWordChangesOnlyLastStatus := by
  intro s w hs hw
  have hd : decodeHost w = .illegal w := decodeHost_of_not_command hw
  exact ⟨hd, hd ▸ hostCommand_eq_next hs (State.endCommand_eq rfl .none s)⟩

/-! ### The step that runs a command word -/

/-- Settles O32: `fetch` finds the decoded word, and the step is `enterOutcome` of its outcome. -/
theorem stepRunsTheDecodedCommand : Obligations.StepRunsTheDecodedCommand := by
  intro s w rest hf hi
  have hs : step s = enterOutcome (exec (decodeHost w) { s with inputs := rest }) :=
    step_of_fetch_run (fetch_of_command hi hf)
  constructor
  · intro t ht; rw [hs, ht]; rfl
  · intro r hx; rw [hs, hx]; rfl

end Sys2Proof.Machine

/-! PROOFS. R100, R11: each command ends with exactly one response. -/

namespace Sys2Proof.Machine

open Sys2Proof

/-- A stable state takes no command exactly when no command word is next. -/
theorem State.takenCommand_eq_nil_iff {s : State} (hs : s.fsm.isStable = true) :
    s.takenCommand = [] ↔ ∀ w, s.inputs.head? ≠ some (.command w) := by
  refine ⟨fun hc w hw => ?_, fun h => State.takenCommand_nil (.inr h)⟩
  obtain ⟨rest, hi⟩ := List.head?_eq_some_iff.mp hw
  have hf : s.fsm ≠ .sComp := by rintro hf; simp [hf, Fsm.isStable] at hs
  simp [State.takenCommand_eq hi hf] at hc

/-- One command to answer: a transient state's, or the word that is next. -/
theorem State.transient_or_command_next {s : State} (h : s.toAnswer = 1) :
    s.fsm.isStable = false ∨ ∃ w, s.inputs.head? = some (.command w) := by
  cases hs : s.fsm.isStable with
  | false => exact .inl rfl
  | true =>
    right
    by_contra! hc
    simp [State.toAnswer, (State.takenCommand_eq_nil_iff hs).mpr hc, hs] at h

/-- Settles O43: by `step_answers`, a step idles with no command to answer, or answers its one command when it leaves the
FSM stable. -/
theorem eachCommandEndsWithOneResponse : Obligations.EachCommandEndsWithOneResponse := by
  intro s t _ hr h
  rcases step_answers hr h with ⟨hs, hc, -, hresp⟩ | ⟨hone, hans⟩
  · have hn : ¬ (s.fsm.isStable = false ∨ ∃ w, s.inputs.head? = some (.command w)) := by
      simpa [hs] using (State.takenCommand_eq_nil_iff hs).mp hc
    rwa [if_neg fun h => hn h.2]
  · have hcmd := State.transient_or_command_next hone
    rcases hans with ⟨ht, hresp⟩ | ⟨ht, hresp⟩
    · rwa [if_pos ⟨ht, hcmd⟩]
    · rwa [if_neg fun h => by simp [ht] at h]

end Sys2Proof.Machine

/-! PROOFS. Whole commands (R158): INIT and MEASURE from the command word to the response. -/

namespace Sys2Proof.Machine

open Sys2Proof

/-! ### Steps of a command's bus sequence -/

/-- The state `s` once its command has brought the FSM to `f`, with nothing in flight: `tr` has been appended to the
trace and `ins` is still to come. -/
def State.arrive (f : Fsm) (tr : List Event) (ins : List Input) (s : State) : State :=
  { s with fsm := f, pend := none, trace := s.trace ++ tr, inputs := ins }

/-- A state from which nothing was in flight arrives at `f` with no events. -/
theorem State.arrive_of_idle {s : State} (hp : s.pend = none) (f : Fsm) (ins : List Input) :
    { s with fsm := f, inputs := ins } = s.arrive f [] ins := by
  simp [State.arrive, ← hp]

/-- The state that `f` is entered in waits for `f`'s request, and the answer brings it back to rest in `f`. -/
theorem State.arrive_enter_answered {s : State} {f : Fsm} {r : Request} (hr : (s.goto f).entryRequest = some r)
    (tr : List Event) (ins rest : List Input) (ev : Event) :
    (s.arrive f tr ins).enter.answered ev rest = s.arrive f (tr ++ [r.issueEvent, ev]) rest := by
  rw [State.enter_of_request (s := s.arrive f tr ins) rfl hr]
  simp [State.arrive, State.issue, State.answered]

/-- The state that `f` is entered in has `f`'s request pending (R35). -/
theorem State.arrive_enter_pend {s : State} {f : Fsm} {r : Request} (hr : (s.goto f).entryRequest = some r)
    (tr : List Event) (ins : List Input) : (s.arrive f tr ins).enter.pend = some r :=
  (State.enter_pend (s := s.arrive f tr ins) (.inl rfl)).trans hr

/-- An action of the host is no answer. -/
theorem ne_hostAction_of_verdict {r : Request} {a : Input} (hv : r.verdict a ≠ .hostAction) :
    a ≠ .reset ∧ ∀ w, a ≠ .command w := by
  refine ⟨?_, fun w => ?_⟩ <;> rintro rfl <;> simp [Request.verdict] at hv

section
variable {s t : State} {f : Fsm} {i : Instr} {r : Request} {onOk : List U8 → State → State}
  {onErr : BusError → State → State} {a : Input} {ev : Event} {tr : List Event} {ins : List Input}

/-- An input that is no action of the host goes to the micro-operation of the FSM. -/
theorem step_arrive {v : State} (hm : f.microOp s.oss = some i) (hv : r.verdict a ≠ .hostAction)
    (hx : exec i (s.arrive f tr (a :: ins)).enter = .next v) :
    step (s.arrive f tr (a :: ins)).enter = .next v.enter := by
  obtain ⟨hreset, hcommand⟩ := ne_hostAction_of_verdict hv
  refine (stepRunsTheMicroOp _ i ?_ ?_ (.inr ?_)).1 v hx
  · simpa [State.arrive] using hm
  · simpa [State.resetNext, State.arrive] using hreset
  · simpa [State.arrive] using hcommand

/-- A step in which the request of `f` is answered `Ok`. -/
theorem step_arrive_ok {bytes : List U8} (hm : f.microOp s.oss = some i) (hr : (s.goto f).entryRequest = some r)
    (hx : exec i (s.arrive f tr (a :: ins)).enter = microOp i r onOk onErr (s.arrive f tr (a :: ins)).enter)
    (hv : r.verdict a = .ok bytes ev)
    (ht : (onOk bytes (s.arrive f (tr ++ [r.issueEvent, ev]) ins)).enter = t) :
    step (s.arrive f tr (a :: ins)).enter = .next t := by
  rw [← ht]
  refine step_arrive (r := r) hm (by simp [hv]) (hx.trans ?_)
  rw [microOp_ok (by simpa [State.arrive] using hm) (State.arrive_enter_pend hr tr (a :: ins)) (State.enter_inputs _)
    hv, State.arrive_enter_answered hr]

/-- A step in which the request of `f` is answered `Err(e)`. -/
theorem step_arrive_err {e : BusError} (hm : f.microOp s.oss = some i) (hr : (s.goto f).entryRequest = some r)
    (hx : exec i (s.arrive f tr (a :: ins)).enter = microOp i r onOk onErr (s.arrive f tr (a :: ins)).enter)
    (hv : r.verdict a = .err e ev)
    (ht : (onErr e (s.arrive f (tr ++ [r.issueEvent, ev]) ins)).enter = t) :
    step (s.arrive f tr (a :: ins)).enter = .next t := by
  rw [← ht]
  refine step_arrive (r := r) hm (by simp [hv]) (hx.trans ?_)
  rw [microOp_err (by simpa [State.arrive] using hm) (State.arrive_enter_pend hr tr (a :: ins)) (State.enter_inputs _)
    hv, State.arrive_enter_answered hr]

end

/-- The response of a command that ends with OK, with the flags as they are afterwards (R31). -/
theorem State.endCommand_ok_responses (s : State) (d : Data) :
    (s.endCommand .ok .noStep none d).responses =
      s.responses ++ [⟨(s.endCommand .ok .noStep none d).wordOf 0x00 0 0, d, none⟩] := by
  rw [State.endCommand_eq rfl]
  rfl

/-! ### INIT -/

/-- R101: a legal INIT stages its operands and enters `S_RD_CAL`. -/
theorem step_init {s : State} {a : U8} {m : U2} {ins : List Input} (hf : s.fsm = .uncal) (hc : s.calValid = false)
    (hp : s.pend = none) (hi : s.inputs = .command (AsmLine.assemble (.init a (m.setWidth 8))) :: ins) :
    step s = .next (State.arrive .sRdCal [] ins { s with stgAddr := a, stgMode := m }).enter := by
  obtain ⟨hd, -⟩ := assembledLinesDecodeToTheirCommands.1 a (m.setWidth 8)
  obtain ⟨-, -, hstages⟩ :=
    initChecksThenStages { s with inputs := ins } a (m.setWidth 8) (by simp [hf, Fsm.isStable])
  have hm : (m.setWidth 8).toNat = m.toNat := by simp; omega
  refine (stepRunsTheDecodedCommand s _ ins (by simp [hf]) hi).1 _ ?_
  rw [hd]
  refine (hstages hc (by omega)).trans (congrArg _ ?_)
  rw [hm, BitVec.ofNat_toNat, BitVec.setWidth_eq]
  exact State.arrive_of_idle (s := { s with stgAddr := a, stgMode := m }) hp .sRdCal ins

/-- R141, R142: `Ok` with 22 bytes ends RD_CAL with the commit. -/
theorem step_rdCal_ok (s : State) (tr : List Event) (c : Vector U8 22) (ins : List Input) :
    step (s.arrive .sRdCal tr (.readOk c.toList :: ins)).enter =
      .next { s.arrive .sRdCal (tr ++ ([.r s.stgAddr 0xAA 22, .rOk c.toList] : List Event)) ins with
        stgCal := c }.commitInit := by
  refine step_arrive_ok (i := .rdCal) (r := s.rdCalRequest) rfl rfl rfl (verdict_read c.length_toList) ?_
  rw [calBlock_toList]
  rfl

/-- Settles O47: INIT's step, and the step in which RD_CAL is answered. -/
theorem initRunCalibratesTheHandle : Obligations.InitRunCalibratesTheHandle := by
  intro s a m c rest hf hc hp hi
  refine ⟨_, (run_succ (step_init hf hc hp hi)).trans
    ((run_succ (step_rdCal_ok _ [] c rest)).trans (run_zero _)), ?_⟩
  exact ⟨rfl, rfl, rfl, rfl, rfl, rfl, rfl, rfl, rfl, rfl, State.endCommand_ok_responses _ _⟩

/-! ### MEASURE -/

/-- R105: MEASURE on a calibrated handle enters `S_WR_TCMD`. -/
theorem step_measure {s : State} {ins : List Input} (hf : s.fsm = .ready) (hc : s.calValid = true)
    (hp : s.pend = none) (hi : s.inputs = .command 0x00000002 :: ins) :
    step s = .next (s.arrive .sWrTcmd [] ins).enter := by
  refine (stepRunsTheDecodedCommand s _ ins (by simp [hf]) hi).1 _ ?_
  rw [← State.arrive_of_idle hp]
  exact (measureStartsOrIsRejected { s with inputs := ins } (by simp [hf, Fsm.isStable])).1 hc

section
variable (s : State) (tr : List Event) (ins : List Input)

/-- R144: WR_TCMD's answer leads to `S_DLY_T`. -/
theorem step_wrTcmd_ok : step (s.arrive .sWrTcmd tr (.writeOk :: ins)).enter =
    .next (s.arrive .sDlyT (tr ++ [.w s.devAddr 0xF4 [0x2E], .wOk]) ins).enter :=
  step_arrive_ok (i := .wrTcmd) (r := s.wrTcmdRequest) rfl rfl rfl rfl rfl

/-- R146: the end of the first delay leads to `S_RD_T`. -/
theorem step_dlyT_done : step (s.arrive .sDlyT tr (.delayDone :: ins)).enter =
    .next (s.arrive .sRdT (tr ++ [.d (modeTable s.oss).tConvT, .dDone]) ins).enter :=
  step_arrive_ok (i := .dlyT s.oss) (r := s.dlyTRequest) rfl rfl rfl rfl rfl

/-- R148: RD_T's answer is staged and leads to `S_WR_PCMD`. -/
theorem step_rdT_ok (t0 t1 : U8) : step (s.arrive .sRdT tr (.readOk [t0, t1] :: ins)).enter =
    .next (State.arrive .sWrPcmd (tr ++ [.r s.devAddr 0xF6 2, .rOk [t0, t1]]) ins { s with stgT := ⟨t0, t1⟩ }).enter :=
  step_arrive_ok (i := .rdT) (r := s.rdTRequest) rfl rfl rfl (verdict_read rfl) rfl

/-- R149, with R73's byte: WR_PCMD's answer leads to `S_DLY_P`. -/
theorem step_wrPcmd_ok : step (s.arrive .sWrPcmd tr (.writeOk :: ins)).enter =
    .next (s.arrive .sDlyP (tr ++ [.w s.devAddr 0xF4 [0x34 ||| (s.oss.setWidth 8 <<< 6)], .wOk]) ins).enter := by
  rw [← modeTable_pcmd]
  exact step_arrive_ok (i := .wrPcmd s.oss) (r := s.wrPcmdRequest) rfl rfl rfl rfl rfl

/-- R150: the end of the second delay leads to `S_RD_P`. -/
theorem step_dlyP_done : step (s.arrive .sDlyP tr (.delayDone :: ins)).enter =
    .next (s.arrive .sRdP (tr ++ [.d (modeTable s.oss).tConvP, .dDone]) ins).enter :=
  step_arrive_ok (i := .dlyP s.oss) (r := s.dlyPRequest) rfl rfl rfl rfl rfl

/-- R151: RD_P's answer is staged and leads to `S_COMP`, which issues nothing. -/
theorem step_rdP_ok (p0 p1 p2 : U8) : step (s.arrive .sRdP tr (.readOk [p0, p1, p2] :: ins)).enter =
    .next (State.arrive .sComp (tr ++ [.r s.devAddr 0xF6 3, .rOk [p0, p1, p2]]) ins { s with stgP := ⟨p0, p1, p2⟩ }) :=
  step_arrive_ok (i := .rdP) (r := s.rdPRequest) rfl rfl rfl (verdict_read rfl) rfl

/-- R153: an error in RD_P's answer aborts the MEASURE. -/
theorem step_rdP_err (e : BusError) : step (s.arrive .sRdP tr (.busErr e :: ins)).enter =
    .next ((s.arrive .sRdP (tr ++ [.r s.devAddr 0xF6 3, .rErr e]) ins).abort .measBusError .rdP .ready e) :=
  step_arrive_err (i := .rdP) (r := s.rdPRequest) rfl rfl rfl rfl rfl

end

/-- R200, R152: COMP without a fault ends with the commit. -/
theorem step_comp_done {s : State} {dp : Datapath} {ins : List Input} (tr : List Event)
    (hr : ins.head? ≠ some .reset) (hd : s.compensation = .done dp) :
    step (s.arrive .sComp tr ins) = .next { s.arrive .sComp tr ins with dp := dp }.commitMeasure := by
  have hd' : (s.arrive .sComp tr ins).compensation = .done dp := hd
  have hx : exec .comp (s.arrive .sComp tr ins) = .next (s.arrive .sComp tr ins).comp := rfl
  rw [(stepRunsTheMicroOp (s.arrive .sComp tr ins) .comp rfl hr (.inl rfl)).1 _ hx, State.comp, hd']
  rfl

/-- R158, the part of the trace that every MEASURE has which gets as far as its pressure read. -/
def State.eventsBeforeRdP (s : State) (t0 t1 : U8) : List Event :=
  [.w s.devAddr 0xF4 [0x2E], .wOk,
   .d (modeTable s.oss).tConvT, .dDone,
   .r s.devAddr 0xF6 2, .rOk [t0, t1],
   .w s.devAddr 0xF4 [0x34 ||| (s.oss.setWidth 8 <<< 6)], .wOk,
   .d (modeTable s.oss).tConvP, .dDone]

/-- A MEASURE whose first five requests are answered well enters `S_RD_P` in six steps. -/
theorem run_measure_until_rdP {s : State} {t0 t1 : U8} {ins : List Input} (k : Nat) (hf : s.fsm = .ready)
    (hc : s.calValid = true) (hp : s.pend = none)
    (hi : s.inputs = .command 0x00000002 :: .writeOk :: .delayDone :: .readOk [t0, t1] :: .writeOk :: .delayDone :: ins) :
    core.run (k + 6) s =
      core.run k (State.arrive .sRdP (s.eventsBeforeRdP t0 t1) ins { s with stgT := ⟨t0, t1⟩ }).enter := by
  rw [run_succ (step_measure hf hc hp hi), run_succ (step_wrTcmd_ok ..), run_succ (step_dlyT_done ..),
    run_succ (step_rdT_ok ..), run_succ (step_wrPcmd_ok ..), run_succ (step_dlyP_done ..)]
  rfl

/-- Settles O48: up to `S_RD_P`, then the pressure read and COMP. -/
theorem measureRunCommitsTheReading : Obligations.MeasureRunCommitsTheReading := by
  intro s t0 t1 p0 p1 p2 dp rest hf hc hp hi hr hd
  have hcomp := step_comp_done (s := { s with stgT := ⟨t0, t1⟩, stgP := ⟨p0, p1, p2⟩ })
    (s.eventsBeforeRdP t0 t1 ++ [.r s.devAddr 0xF6 3, .rOk [p0, p1, p2]]) hr hd
  refine ⟨_, (run_measure_until_rdP 2 hf hc hp hi).trans ((run_succ (step_rdP_ok ..)).trans
    ((run_succ hcomp).trans (run_zero _))), ?_⟩
  exact ⟨rfl, rfl, rfl, rfl, hc, rfl, rfl, rfl, rfl, rfl, rfl, State.endCommand_ok_responses _ _⟩

/-- Settles O49: up to `S_RD_P`, then the abort of the pressure read. -/
theorem failedPressureReadKeepsTheReading : Obligations.FailedPressureReadKeepsTheReading := by
  intro s t0 t1 e rest hf hc hp hi
  refine ⟨_, (run_measure_until_rdP 1 hf hc hp hi).trans ((run_succ (step_rdP_err ..)).trans (run_zero _)), ?_⟩
  refine ⟨rfl, rfl, rfl, rfl, rfl, rfl, ?_⟩
  rw [State.abort_eq, State.raiseFail_responses, State.statusWord_eq_wordOf, bclsField_busErrorClass]
  rfl

end Sys2Proof.Machine

/-! PROOFS. The micro-operations of the bus sequence (R140 to R155): each issues its request, and its answer moves the
FSM, commits, aborts or is refused. -/

namespace Sys2Proof.Machine

open Sys2Proof

/-! ### The micro-operation protocol (R140, R153, R155) -/

/-- R155: a read answered with another number of bytes has no step. -/
theorem microOp_wrong_length {i : Instr} {addr reg : U8} {n : Nat} {onOk : List U8 → State → State}
    {onErr : BusError → State → State} {s : State} {bytes : List U8} {rest : List Input}
    (hm : s.fsm.microOp s.oss = some i) (hp : s.pend = some (.bus (.read addr reg n)))
    (hi : s.inputs = .readOk bytes :: rest) (hl : bytes.length ≠ n) :
    microOp i (.bus (.read addr reg n)) onOk onErr s = .refused .answerLength := by
  rw [microOp_answer hm hp]
  simp [awaitAnswer, hi, Request.verdict, hl]

/-- R140: a state that issues a request on entry runs the micro-operation protocol with that request. -/
theorem exec_eq_microOp_of_entryRequest {s : State} {r : Request} (h : s.entryRequest = some r) :
    ∃ i onOk onErr, s.fsm.microOp s.oss = some i ∧ exec i s = microOp i r onOk onErr s := by
  cases hf : s.fsm <;> simp only [State.entryRequest, hf, Option.some.injEq, reduceCtorEq] at h <;> subst h
  all_goals exact ⟨_, _, _, rfl, rfl⟩

/-- R143, R153: a micro-operation whose request is answered `Err(e)`, and which aborts its command then. -/
theorem microOp_aborts {i : Instr} {req : Request} {onOk : List U8 → State → State} {c : OutcomeCode} {p : StepCode}
    {home : Fsm} {s : State} {a : Input} {rest : List Input} {e : BusError} {ev : Event} (hc : c.wrapsBusError = true)
    (hm : s.fsm.microOp s.oss = some i) (hp : s.pend = some req) (hi : s.inputs = a :: rest)
    (hv : req.verdict a = .err e ev) :
    microOp i req onOk (State.abort c p home) s = .next { s with
      lastBusError := some e
      fsm := home
      pend := none
      trace := s.trace ++ [ev]
      inputs := rest
      lastStatus := s.wordOf c.code.toNat p.code.toNat (bclsOf e)
      responses := s.responses ++ [⟨s.wordOf c.code.toNat p.code.toNat (bclsOf e), .none, some e⟩] } := by
  obtain ⟨-, hw, -⟩ := statusWordFields s c p
  rw [microOp_err hm hp hi hv, State.abort_eq, State.raiseFail, State.endCommand, if_pos hc, ← hw e]
  rfl

/-! ### Failures -/

/-- Settles O26: the four transactions of the measure phase continue an `Err(e)` with the abort. -/
theorem measurePhaseFailureAborts : Obligations.MeasurePhaseFailureAborts := by
  intro s e rest i n ev h hp hi
  rcases h with ⟨hf, rfl, rfl, rfl⟩ | ⟨hf, rfl, rfl, rfl⟩ | ⟨hf, rfl, rfl, rfl⟩ | ⟨hf, rfl, rfl, rfl⟩ <;>
    simp only [State.entryRequest, hf] at hp
  · exact microOp_aborts (p := .wrTcmd) rfl (by rw [hf]; rfl) hp hi rfl
  · exact microOp_aborts (p := .rdT) rfl (by rw [hf]; rfl) hp hi rfl
  · exact microOp_aborts (p := .wrPcmd) rfl (by rw [hf]; rfl) hp hi rfl
  · exact microOp_aborts (p := .rdP) rfl (by rw [hf]; rfl) hp hi rfl

/-- Settles O30: the pending read is the request of the FSM state's micro-operation, which the step runs. -/
theorem wrongLengthAnswerIsRejected : Obligations.WrongLengthAnswerIsRejected := by
  intro s addr reg n bytes rest hpend hp hi hl
  obtain ⟨i, onOk, onErr, hm, hx⟩ := exec_eq_microOp_of_entryRequest (hpend.symm.trans hp)
  have hstep := stepRunsTheMicroOp s i hm (by simp [State.resetNext, hi]) (.inr (by simp [hi]))
  exact hstep.2 _ (hx.trans (microOp_wrong_length hm hp hi hl))

/-- Settles O31: a request's protocol and COMP both look first whether the FSM state issues the micro-operation. -/
theorem microOpHasNoStepElsewhere : Obligations.MicroOpHasNoStepElsewhere := by
  rintro s i h (rfl | rfl | ⟨mm, rfl⟩ | rfl | ⟨mm, rfl⟩ | ⟨mm, rfl⟩ | rfl | rfl) <;> exact if_neg h

/-! ### The edges of the FSM (R140) -/

/-- R140: every state but `S_COMP` may hold. -/
theorem Fsm.mem_edges_self {f : Fsm} (h : f ≠ .sComp) : f ∈ f.edges := by
  cases f <;> simp [Fsm.edges] at h ⊢

theorem Fsm.ne_sComp_of_isStable {f : Fsm} (h : f.isStable = true) : f ≠ .sComp := by
  rintro rfl
  cases h

/-- R140: no request is issued on entry to `S_COMP`. -/
theorem State.fsm_ne_sComp_of_entryRequest {s : State} {r : Request} (h : s.entryRequest = some r) :
    s.fsm ≠ .sComp := by
  rintro hf
  simp [State.entryRequest, hf] at h

/-- R41.1: `cal_valid` tells the two stable states apart. -/
theorem State.CalMatchesFsm.fsm_of_stable {s : State} (hc : s.CalMatchesFsm) (hs : s.fsm.isStable = true) :
    s.fsm = if s.calValid then .ready else .uncal := by
  cases hf : s.fsm
  case uncal | ready => simpa [State.CalMatchesFsm, hf] using hc
  all_goals simp [hf, Fsm.isStable] at hs

/-- INIT leaves `UNCAL` and MEASURE leaves `READY`; every other end of a command keeps the stable state. -/
theorem CommandCase.fsm_mem_edges {s v : State} (h : CommandCase s v) (hs : s.fsm.isStable = true)
    (hc : s.CalMatchesFsm) : v.fsm ∈ s.fsm.edges := by
  have hself : s.fsm ∈ s.fsm.edges := Fsm.mem_edges_self (Fsm.ne_sComp_of_isStable hs)
  cases h with
  | initStarts a m hv hm => simp [hc.fsm_of_stable hs, hv, Fsm.edges]
  | measureStarts hv => simp [hc.fsm_of_stable hs, hv, Fsm.edges]
  | rejects c _ => exact hself
  | answers d => exact hself
  | status => exact hself

/-- A micro-operation holds, or takes the edge of its answer. -/
theorem MicroOpCase.fsm_mem_edges {s v : State} (h : MicroOpCase s v) : v.fsm ∈ s.fsm.edges := by
  cases h with
  | issues r hp hr => exact Fsm.mem_edges_self (State.fsm_ne_sComp_of_entryRequest hr)
  | holds hp hr inputs =>
    obtain ⟨r, hq⟩ := Option.isSome_iff_exists.mp hp
    exact Fsm.mem_edges_self (State.fsm_ne_sComp_of_entryRequest (hr.symm.trans hq))
  | initCommits block rest hf => simp [hf, State.commitInit, Fsm.edges]
  | initAborts e rest hf => simp [hf, State.abort_eq, Fsm.edges]
  | moves ev rest f hf =>
    rcases hf with ⟨hf, rfl, -⟩ | ⟨hf, rfl, -⟩ | ⟨hf, rfl, -⟩ | ⟨hf, rfl, -⟩ <;> simp [hf, Fsm.edges]
  | stagesT b rest hf => simp [hf, Fsm.edges]
  | stagesP b rest hf => simp [hf, Fsm.edges]
  | measureAborts p e ev rest hf =>
    rcases hf with ⟨hf, -⟩ | ⟨hf, -⟩ | ⟨hf, -⟩ | ⟨hf, -⟩ <;> simp [hf, State.abort_eq, Fsm.edges]
  | measureCommits dp hf hd => simp [hf, State.commitMeasure, Fsm.edges]
  | compFaults d hf hd => simp [hf, State.compFault_eq, Fsm.edges]

/-- Settles O41: an idle step keeps the stable state, a command or a micro-operation takes one of its edges, and
entering a state keeps the FSM. -/
theorem fsmMovesOnlyAlongItsEdges : Obligations.FsmMovesOnlyAlongItsEdges := by
  intro s t hc hr h
  rcases step_cases h with ⟨rest, hi, -⟩ | ⟨hs, -, rfl⟩ | ⟨w, rest, v, -, hs, hcmd, rfl⟩ | ⟨-, v, hm, rfl⟩
  · exact absurd (by simp [State.resetNext, hi]) hr
  · exact Fsm.mem_edges_self (Fsm.ne_sComp_of_isStable hs)
  · rw [State.enter_fsm]; exact hcmd.fsm_mem_edges hs hc
  · rw [State.enter_fsm]; exact hm.fsm_mem_edges

/-! ### RD_CAL (R141 to R143) -/

/-- R142: the INIT commit as a whole next state. -/
theorem State.commitInit_eq (s : State) : s.commitInit = { s with
    devAddr := s.stgAddr
    oss := s.stgMode
    cal := decodeCal s.stgCal
    calValid := true
    lastBusError := none
    fsm := .ready
    lastStatus := State.wordOf { s with calValid := true } 0x00 0 0
    responses := s.responses ++ [⟨State.wordOf { s with calValid := true } 0x00 0 0, .none, none⟩] } :=
  State.endCommand_eq rfl .none _

/-- Settles O20: RD_CAL issues its read, commits the block it is answered with, or aborts the INIT. -/
theorem rdCalIssuesThenCommitsOrAborts : Obligations.RdCalIssuesThenCommitsOrAborts := by
  intro s hf
  have hm : s.fsm.microOp s.oss = some .rdCal := by rw [hf]; rfl
  refine ⟨microOp_issue hm, fun block rest hp hi => ?_, fun e rest hp hi => ?_⟩
  · refine (microOp_ok hm hp hi (verdict_read block.length_toList)).trans ?_
    rw [calBlock_toList, State.commitInit_eq]
    rfl
  · exact microOp_aborts (p := .rdCal) rfl hm hp hi rfl

/-! ### The requests of a MEASURE (R144 to R151) -/

/-- Settles O21: WR_TCMD issues its write and moves with the answer. -/
theorem wrTcmdIssuesThenMoves : Obligations.WrTcmdIssuesThenMoves := by
  intro s hf
  have hm : s.fsm.microOp s.oss = some .wrTcmd := by rw [hf]; rfl
  exact ⟨microOp_issue hm, fun rest hp hi => microOp_ok hm hp hi rfl⟩

/-- R76's two delay columns. -/
theorem modeTable_delays {oss : U2} {ns : Nat} (h : oss = 0 ∧ ns = 5000000 ∨ oss = 1 ∧ ns = 8000000 ∨
    oss = 2 ∧ ns = 14000000 ∨ oss = 3 ∧ ns = 26000000) : (modeTable oss).tConvT = ns ∧ (modeTable oss).tConvP = ns := by
  rcases h with ⟨rfl, rfl⟩ | ⟨rfl, rfl⟩ | ⟨rfl, rfl⟩ | ⟨rfl, rfl⟩ <;> exact ⟨rfl, rfl⟩

/-- Settles O22: both delays issue the mode's number of nanoseconds and move with `Done`. -/
theorem delaysIssueThenMove : Obligations.DelaysIssueThenMove := by
  intro s ns h
  obtain ⟨hT, hP⟩ := modeTable_delays h
  refine ⟨?_, ?_, ?_, ?_⟩
  · rw [← hT]; exact fun hf => microOp_issue (by rw [hf]; rfl)
  · rw [← hT]; exact fun rest hf hp hi => microOp_ok (by rw [hf]; rfl) hp hi rfl
  · rw [← hP]; exact fun hf => microOp_issue (by rw [hf]; rfl)
  · rw [← hP]; exact fun rest hf hp hi => microOp_ok (by rw [hf]; rfl) hp hi rfl

/-- Settles O23: RD_T issues its read and stages the answer. -/
theorem rdTIssuesThenStages : Obligations.RdTIssuesThenStages := by
  intro s hf
  have hm : s.fsm.microOp s.oss = some .rdT := by rw [hf]; rfl
  exact ⟨microOp_issue hm, fun b0 b1 rest hp hi => microOp_ok hm hp hi (verdict_read rfl)⟩

/-- Settles O24: WR_PCMD issues its write, with R73's byte, and moves with the answer. -/
theorem wrPcmdIssuesThenMoves : Obligations.WrPcmdIssuesThenMoves := by
  intro s cmd hf hcmd
  have hm : s.fsm.microOp s.oss = some (.wrPcmd s.oss) := by rw [hf]; rfl
  obtain rfl : (modeTable s.oss).pcmd = cmd := (modeTable_pcmd s.oss).trans hcmd.symm
  exact ⟨microOp_issue hm, fun rest hp hi => microOp_ok hm hp hi rfl⟩

/-- Settles O25: RD_P issues its one read and stages the answer. -/
theorem rdPIssuesThenStages : Obligations.RdPIssuesThenStages := by
  intro s hf
  have hm : s.fsm.microOp s.oss = some .rdP := by rw [hf]; rfl
  exact ⟨microOp_issue hm, fun b0 b1 b2 rest hp hi => microOp_ok hm hp hi (verdict_read rfl)⟩

/-! ### COMP (R152) -/

/-- R152: the MEASURE commit as a whole next state. -/
theorem State.commitMeasure_eq (s : State) : s.commitMeasure = { s with
    rawT := s.stgT
    rawP := s.stgP
    tempTenths := s.dp.t
    pressure := s.dp.p
    rdValid := true
    lastBusError := none
    fsm := .ready
    lastStatus := State.wordOf { s with rdValid := true } 0x00 0 0
    responses := s.responses ++ [⟨State.wordOf { s with rdValid := true } 0x00 0 0, .none, none⟩] } :=
  State.endCommand_eq rfl .none _

/-- R200: a pipeline that ends with a datapath leads to the commit. -/
theorem State.comp_of_done {s : State} {dp : Datapath} (h : s.compensation = .done dp) :
    s.comp = { s with dp := dp }.commitMeasure := by
  rw [State.comp, h]

/-- R200: in `S_COMP` COMP always has its one step. -/
theorem exec_comp_of_sComp {s : State} (hf : s.fsm = .sComp) : exec .comp s = .next s.comp :=
  if_pos (by rw [hf]; rfl)

/-- Settles O27: COMP's step, its branch without a fault, and the commit. -/
theorem compCommitsTheReading : Obligations.CompCommitsTheReading := by
  intro s dp hf hd
  rw [exec_comp_of_sComp hf, State.comp_of_done hd, State.commitMeasure_eq]
  rfl

/-! ### Entering a state (R140) -/

/-- Settles O34: a state with nothing pending issues its FSM state's request, if there is one. -/
theorem enteringAStateIssuesItsRequest : Obligations.EnteringAStateIssuesItsRequest := by
  intro s
  refine ⟨fun hp => State.enter_of_settled (.inl hp), fun hf => State.enter_of_settled (.inr ?_), fun hp => ?_⟩
  · rcases hf with hf | hf | hf <;> simp [State.entryRequest, hf]
  · rw [← modeTable_pcmd]
    refine ⟨?_, ?_, ?_, ?_, ?_, ?_, ?_⟩ <;>
      exact fun hf => State.enter_of_request hp (by rw [State.entryRequest, hf]; rfl)

end Sys2Proof.Machine

/-! PROOFS. The statements about compensation: the raw counts, the pipeline R200 as one conditional equation over named
values, those values as integers, and what the temperature depends on. -/

namespace Sys2Proof.Machine

open Sys2Proof Sys2Proof.Safety

/-! ### Raw counts (R177, R178) -/

/-- Settles O50: the counts as numbers, and their ranges. -/
theorem rawCountsAreUnsigned : Obligations.RawCountsAreUnsigned := by
  refine ⟨fun t => ?_, fun p oss => ⟨rawPressCount_toNat p oss, Nat.le_pred_of_lt (rawPressCount_lt p oss)⟩⟩
  have h0 := t.msb.isLt
  have h1 := t.lsb.isLt
  rw [rawTempCount_toInt]
  omega

/-! ### The pipeline's values by name (R200) -/

/-- `b5` as T1 to T3 leave it. -/
def compB5 (c : Cal) (ut : S32) : S32 := stepT3 (stepT1 c ut) (stepT2 c (stepT1 c ut))

/-- `b3` as P2 to P5 leave it. -/
def compB3 (c : Cal) (oss : U2) (b6 : S32) : S32 := stepP5 c oss (stepP4 (stepP2 c b6) (stepP3 c b6))

/-- The last `x3`, which P6 to P8 compute. -/
def compX3 (c : Cal) (b6 : S32) : S32 := stepP8 (stepP6 c b6) (stepP7 c b6)

/-- `b4` as P9 leaves it, P11's divisor. -/
def compB4 (c : Cal) (b6 : S32) : U32 := stepP9 c (compX3 c b6)

/-- The pressure that P12 to P15 compute from P11's quotient. -/
def compPressure (p : S32) : S32 := stepP15 p (stepP13 (stepP12 p)) (stepP14 p)

/-- The datapath of a pipeline without a fault: each name's last write. -/
def compDatapath (c : Cal) (oss : U2) (ut : S32) (up : U32) : Datapath :=
  let b5 := compB5 c ut
  let b6 := stepP1 b5
  let b3 := compB3 c oss b6
  let b4 := compB4 c b6
  let b7 := stepP10 oss up b3
  let p := stepP11 b7 b4
  { x1 := stepP13 (stepP12 p), x2 := stepP14 p, x3 := compX3 c b6, b3, b5, b6, t := stepT4 b5, p := compPressure p,
    b4, b7 }

/-- R200, R199: the two divisors decide, T2's first. -/
theorem compensate_eq (c : Cal) (oss : U2) (ut : S32) (up : U32) :
    compensate c oss ut up =
      if divisorT2 c (stepT1 c ut) = 0 then .divByZero .compT
      else if compB4 c (stepP1 (compB5 c ut)) = 0 then .divByZero .compP
      else .done (compDatapath c oss ut up) := rfl

theorem compensate_eq_compT_iff {c : Cal} {oss : U2} {ut : S32} {up : U32} :
    compensate c oss ut up = .divByZero .compT ↔ divisorT2 c (stepT1 c ut) = 0 := by
  rw [compensate_eq]
  split
  case isTrue hd => exact iff_of_true rfl hd
  case isFalse hd => split <;> exact iff_of_false (by simp) hd

theorem compensate_of_b4_eq_zero {c : Cal} {oss : U2} {ut : S32} {up : U32} (hd : divisorT2 c (stepT1 c ut) ≠ 0)
    (hb : compB4 c (stepP1 (compB5 c ut)) = 0) : compensate c oss ut up = .divByZero .compP := by
  rw [compensate_eq, if_neg hd, if_pos hb]

theorem compensate_of_divisors_ne_zero {c : Cal} {oss : U2} {ut : S32} {up : U32}
    (hd : divisorT2 c (stepT1 c ut) ≠ 0) (hb : compB4 c (stepP1 (compB5 c ut)) ≠ 0) :
    compensate c oss ut up = .done (compDatapath c oss ut up) := by
  rw [compensate_eq, if_neg hd, if_neg hb]

theorem datapath_of_compensate_done {c : Cal} {oss : U2} {ut : S32} {up : U32} {dp : Datapath}
    (h : compensate c oss ut up = .done dp) : dp = compDatapath c oss ut up := by
  rw [compensate_eq] at h
  split at h
  · cases h
  · split at h
    · cases h
    · injection h with h; exact h.symm

/-! ### The temperature as integers (R180 to R184, R202) -/

section
variable (c : Cal) {ut : S32} (h0 : 0 ≤ ut.toInt) (h1 : ut.toInt ≤ 65535)
include h0 h1

theorem stepT1_bounds : -2 ^ 16 ≤ (stepT1 c ut).toInt ∧ (stepT1 c ut).toInt < 2 ^ 16 := by
  rw [stepT1_toInt c h0 (by omega)]
  exact intX1_bounds _ _

theorem divisorT2_stepT1_toInt :
    (divisorT2 c (stepT1 c ut)).toInt = intX1 (.of c) ut.toInt + (IntCal.of c).md := by
  obtain ⟨hlo, hhi⟩ := stepT1_bounds c h0 h1
  rw [divisorT2_toInt c hlo hhi, stepT1_toInt c h0 (by omega)]
  rfl

/-- T3's sum does not wrap. -/
theorem compB5_toInt_eq_add :
    (compB5 c ut).toInt = (stepT1 c ut).toInt + (stepT2 c (stepT1 c ut)).toInt := by
  obtain ⟨hlo, hhi⟩ := stepT1_bounds c h0 h1
  obtain ⟨hlo2, hhi2⟩ := stepT2_bounds c hlo hhi
  exact stepT3_toInt hlo hhi hlo2 hhi2

theorem compB5_toInt : (compB5 c ut).toInt = intB5 (.of c) ut.toInt := by
  obtain ⟨hlo, hhi⟩ := stepT1_bounds c h0 h1
  rw [compB5_toInt_eq_add c h0 h1, stepT2_toInt c hlo hhi, stepT1_toInt c h0 (by omega)]
  rfl

theorem compB5_bounds :
    -(2 ^ 26 + 2 ^ 16) ≤ (compB5 c ut).toInt ∧ (compB5 c ut).toInt ≤ 2 ^ 26 + 2 ^ 16 := by
  obtain ⟨hlo, hhi⟩ := stepT1_bounds c h0 h1
  obtain ⟨hlo2, hhi2⟩ := stepT2_bounds c hlo hhi
  rw [compB5_toInt_eq_add c h0 h1]
  omega

theorem stepT4_compB5_toInt : (stepT4 (compB5 c ut)).toInt = intT (compB5 c ut).toInt := by
  obtain ⟨hlo, hhi⟩ := compB5_bounds c h0 h1
  exact stepT4_toInt (by omega) (by omega)

/-- P1's subtraction does not wrap. -/
theorem stepP1_compB5_toInt : (stepP1 (compB5 c ut)).toInt = (compB5 c ut).toInt - 4000 := by
  obtain ⟨hlo, hhi⟩ := compB5_bounds c h0 h1
  exact stepP1_toInt (by omega) (by omega)

end

/-- Settles O52: R202's rows in the order of the steps. -/
theorem temperatureStepsNeverWrap : Obligations.TemperatureStepsNeverWrap := by
  intro c ut h0 h1 x1 x2 b5
  have hac6 := c.ac6.isLt
  have hmc := sext_bounds c.mc
  obtain ⟨hlo, hhi⟩ := stepT1_bounds c h0 h1
  have hb5 : -(2 ^ 26 + 2 ^ 16) ≤ b5.toInt ∧ b5.toInt ≤ 2 ^ 26 + 2 ^ 16 := compB5_bounds c h0 h1
  refine ⟨?_, ⟨hlo, hhi⟩, ?_, divisorT2_toInt c hlo hhi, stepT2_bounds c hlo hhi, compB5_toInt_eq_add c h0 h1, hb5, ?_,
    stepP1_compB5_toInt c h0 h1⟩
  · rw [toInt_sub, toInt_zext32, wrapS_eq (by omega) (by omega)]
  · rw [toInt_shl, toInt_sext32, wrapS_eq (by omega) (by omega)]
    rfl
  · rw [toInt_add, show ((8 : S32)).toInt = 8 by decide, wrapS_eq (by omega) (by omega)]

/-! ### The pressure as integers (R185 to R198) -/

/-- R172: what is left of 32 signed bits after a right shift. -/
theorem sar_bounds (a : S32) (n : Nat) (hn : n ≤ 31) :
    -2 ^ (31 - n) ≤ (sar a n).toInt ∧ (sar a n).toInt < 2 ^ (31 - n) := by
  have hw := wrapShift_bounds a.toInt n hn
  rwa [wrapS_eq (by simpa using a.le_toInt) (by simpa using a.toInt_lt), ← toInt_sar] at hw

theorem compB3_toInt (c : Cal) (oss : U2) (b6 : S32) :
    (compB3 c oss b6).toInt = intB3 (.of c) oss.toNat b6.toInt := by
  have h2 : -2 ^ 20 ≤ (stepP2 c b6).toInt ∧ (stepP2 c b6).toInt < 2 ^ 20 := sar_bounds _ 11 (by decide)
  have h3 : -2 ^ 20 ≤ (stepP3 c b6).toInt ∧ (stepP3 c b6).toInt < 2 ^ 20 := sar_bounds _ 11 (by decide)
  have h4 := stepP4_toInt h2 h3
  rw [compB3, stepP5_toInt c oss (by omega), h4, stepP2_toInt, stepP3_toInt]
  rfl

theorem compB4_toNat (c : Cal) (b6 : S32) : ((compB4 c b6).toNat : Int) = intB4 (.of c) b6.toInt := by
  have h6 : -2 ^ 18 ≤ (stepP6 c b6).toInt ∧ (stepP6 c b6).toInt < 2 ^ 18 := sar_bounds _ 13 (by decide)
  have h7 : -2 ^ 15 ≤ (stepP7 c b6).toInt ∧ (stepP7 c b6).toInt < 2 ^ 15 := sar_bounds _ 16 (by decide)
  rw [compB4, stepP9_toNat, compX3, stepP8_toInt h6 h7, stepP6_toInt, stepP7_toInt]
  rfl

theorem compPressure_toInt (p : S32) : (compPressure p).toInt = intPressure p.toInt := by
  have h13 : -2 ^ 15 ≤ (stepP13 (stepP12 p)).toInt ∧ (stepP13 (stepP12 p)).toInt < 2 ^ 15 := sar_bounds _ 16 (by decide)
  have h14 : -2 ^ 15 ≤ (stepP14 p).toInt ∧ (stepP14 p).toInt < 2 ^ 15 := sar_bounds _ 16 (by decide)
  rw [compPressure, stepP15_toInt h13 h14, stepP13_toInt, stepP14_toInt, stepP12_toInt]
  rfl

/-- Settles O51: the two divisors and the values of `compDatapath` are the formula's. -/
theorem pipelineIsTheIntegerFormula : Obligations.PipelineIsTheIntegerFormula := by
  intro c oss ut up h0 h1 k x1 b5 b3 b4 b7
  have hb5 : (compB5 c ut).toInt = b5 := compB5_toInt c h0 h1
  have hb6 : (stepP1 (compB5 c ut)).toInt = b5 - 4000 := by rw [stepP1_compB5_toInt c h0 h1, hb5]
  have hb3 : (compB3 c oss (stepP1 (compB5 c ut))).toInt = b3 := by rw [compB3_toInt, hb6]
  have hb4 : ((compB4 c (stepP1 (compB5 c ut))).toNat : Int) = b4 := by rw [compB4_toNat, hb6]
  have hb7 : ((stepP10 oss up (compB3 c oss (stepP1 (compB5 c ut)))).toNat : Int) = b7 := by rw [stepP10_toNat, hb3]
  have hdiv : divisorT2 c (stepT1 c ut) = 0 ↔ x1 + k.md = 0 := by
    rw [← divisorT2_stepT1_toInt c h0 h1, ← BitVec.toInt_inj]
    exact Iff.rfl
  have hb4z : compB4 c (stepP1 (compB5 c ut)) = 0 ↔ b4 = 0 := by
    rw [← hb4, ← BitVec.toNat_inj, Int.natCast_eq_zero]
    exact Iff.rfl
  refine ⟨fun hx => compensate_eq_compT_iff.mpr (hdiv.mpr hx),
    fun hx hz => compensate_of_b4_eq_zero (hdiv.not.mpr hx) (hb4z.mpr hz),
    fun hx hz => ⟨_, compensate_of_divisors_ne_zero (hdiv.not.mpr hx) (hb4z.not.mpr hz), hb5, ?_, hb3, hb4, hb7, ?_⟩⟩
  · rw [← hb5]
    exact stepT4_compB5_toInt c h0 h1
  · rw [← hb7, ← hb4, ← stepP11_toInt]
    exact compPressure_toInt _

/-! ### What the temperature depends on (R201) -/

section
variable {c c' : Cal} (h5 : c'.ac5 = c.ac5) (h6 : c'.ac6 = c.ac6) (hd : c'.md = c.md)
include h5 h6

theorem stepT1_congr (ut : S32) : stepT1 c' ut = stepT1 c ut := by
  rw [stepT1, stepT1, h5, h6]

include hd

theorem divisorT2_congr (ut : S32) : divisorT2 c' (stepT1 c' ut) = divisorT2 c (stepT1 c ut) := by
  rw [divisorT2, divisorT2, stepT1_congr h5 h6, hd]

theorem compB5_congr (hc : c'.mc = c.mc) (ut : S32) : compB5 c' ut = compB5 c ut := by
  rw [compB5, compB5, stepT2, stepT2, divisorT2_congr h5 h6 hd, stepT1_congr h5 h6, hc]

end

/-- Settles O53: T2's divisor and `b5` read four coefficients and UT, and no step reads MB. -/
theorem temperatureDependsOnFiveInputs : Obligations.TemperatureDependsOnFiveInputs := by
  intro c c' oss oss' ut up up' h5 h6 hc hd
  refine ⟨?_, fun dp dp' h h' => ?_, fun _ => rfl⟩
  · rw [compensate_eq_compT_iff, compensate_eq_compT_iff, divisorT2_congr h5 h6 hd]
  · rw [datapath_of_compensate_done h, datapath_of_compensate_done h']
    exact congrArg stepT4 (compB5_congr h5 h6 hd hc ut)

/-! ### COMP's fault (R199, R246) -/

/-- R199: the fault of COMP as a whole next state. -/
theorem State.compFault_eq_wordOf (d : StepCode) (s : State) : s.compFault d = { s with
    faultDz := true
    lastBusError := none
    fsm := .ready
    lastStatus := State.wordOf { s with faultDz := true } 0x07 d.code.toNat 0
    responses := s.responses ++ [⟨State.wordOf { s with faultDz := true } 0x07 d.code.toNat 0, .none, none⟩] } := by
  have hw : State.statusWord { s with faultDz := true } .compDivZero d none =
      State.wordOf { s with faultDz := true } 0x07 d.code.toNat 0 := State.statusWord_eq_wordOf _ .compDivZero d none
  rw [State.compFault_eq, ← hw]
  rfl

/-- R200: a pipeline that meets a zero divisor leads to the fault. -/
theorem State.comp_of_divByZero {s : State} {d : StepCode} (h : s.compensation = .divByZero d) :
    s.comp = s.compFault d := by
  rw [State.comp, h]

/-- Settles O28: COMP's step, its fault branch, and the fault's whole next state with the divisor's step code. -/
theorem compFaultWritesNothingElse : Obligations.CompFaultWritesNothingElse := by
  intro s d n hf hd hn
  have hcode : d.code.toNat = n := by
    rcases hn with ⟨rfl, rfl⟩ | ⟨rfl, rfl⟩ <;> rfl
  rw [exec_comp_of_sComp hf, State.comp_of_divByZero hd, State.compFault_eq_wordOf, hcode]

end Sys2Proof.Machine

/-! PROOFS. The statements about the calibration block (R142, R224) and the host-side functions (R221 to R223). -/

namespace Sys2Proof.Machine

open Sys2Proof

/-! ### The calibration block (R142, R224) -/

/-- R7: the high slice of `{hi, lo}`. -/
theorem slice_high_append (hi lo : U8) : slice (hi ++ lo : U16) 8 8 = hi :=
  BitVec.extractLsb'_append_eq_left

/-- R7: the low slice of `{hi, lo}`. -/
theorem slice_low_append (hi lo : U8) : slice (hi ++ lo : U16) 0 8 = lo :=
  BitVec.extractLsb'_append_eq_right

/-- A pattern is its two bytes, the more significant first. -/
theorem high_append_low (v : U16) : slice v 8 8 ++ slice v 0 8 = v := by
  rw [slice_append_slice v 0 8 8, slice_self]

/-- R224: re-encoding gives back each byte of the block. -/
theorem encodeCal_decodeCal (block : Vector U8 22) : encodeCal (decodeCal block) = block := by
  simp only [encodeCal, decodeCal, slice_high_append, slice_low_append]
  ext i hi
  interval_cases i <;> rfl

/-- R224: decoding gives back each coefficient's pattern. -/
theorem decodeCal_encodeCal (c : Cal) : decodeCal (encodeCal c) = c := by
  simp [decodeCal, encodeCal, high_append_low]

/-- Settles O55: the bytes of `{hi, lo}` are `hi` and `lo`, and a pattern is its two bytes. -/
theorem calibrationRoundTrip : Obligations.CalibrationRoundTrip :=
  ⟨encodeCal_decodeCal, decodeCal_encodeCal⟩

/-! ### The calibration text (R223) -/

/-- The formatter writes each row's line somewhere in its text. -/
theorem line_infix_formatCalibration {c : Cal} {row : String × Int} (h : row ∈ c.table) :
    row.1.toList ++ (" = ".toList ++ ((toString row.2).toList ++ ['\n'])) <:+: formatCalibration c :=
  List.infix_of_mem_flatten (List.mem_map_of_mem h)

/-- Settles O56: a row's name begins its line, and its value stands between ` = ` and the end of the line. -/
theorem calibrationTextShowsEveryCoefficient : Obligations.CalibrationTextShowsEveryCoefficient := by
  intro c row hrow
  have hline := line_infix_formatCalibration hrow
  constructor
  · exact (List.prefix_append _ _).isInfix.trans hline
  · have hvalue := List.infix_append' " = ".toList (toString row.2).toList ['\n']
    exact (hvalue.trans (List.suffix_append _ _).isInfix).trans hline

/-! ### The altitude (R221, R222) -/

/-- R221: the exact altitude over one's own positive pressure is 0, since the quotient of the pressures is 1. -/
theorem exactAltitude_self {p : S32} (hp : 0 < p.toInt) : exactAltitude p p = 0 := by
  have hquot : (p.toInt : ℝ) / (p.toInt : ℝ) = 1 := div_self (Int.cast_ne_zero.mpr hp.ne')
  rw [exactAltitude, hquot, Real.one_rpow, sub_self, mul_zero]

/-- R221: at two equal positive pressures a result is any integer within 1 of 0. -/
theorem isAltitude_self_iff {p : S32} {h : Int} (hp : 0 < p.toInt) : IsAltitude p p h ↔ |h| ≤ 1 := by
  rw [IsAltitude, exactAltitude_self hp, sub_zero, and_iff_right hp, and_iff_right hp]
  exact_mod_cast Iff.rfl

/-- Settles O57: a result requires both pressures to be positive, and at equal ones the exact altitude is 0. -/
theorem altitudeOfEqualOrNonPositivePressures : Obligations.AltitudeOfEqualOrNonPositivePressures := by
  constructor
  · rintro p p0 h hle ⟨hp, hp0, -⟩
    exact hle.elim hp.not_ge hp0.not_ge
  · intro p h hp
    rw [isAltitude_self_iff hp, abs_le]

end Sys2Proof.Machine

/-! PROOFS. Exceptions: a command that finds another outstanding (R257), a request that nothing answers (R264), and
precise errors (R250, R251). -/

namespace Sys2Proof.Machine

open Sys2Proof

/-! ### A command while another is outstanding (R257) -/

/-- R82, R88: whatever a host word decodes to follows the protocol of host commands; none is a micro-operation. -/
theorem exec_decodeHost_eq_hostCommand (w : U32) : ∃ body, ∀ s, exec (decodeHost w) s = hostCommand body s := by
  fun_cases decodeHost w <;> exact ⟨_, fun _ => rfl⟩

/-- Settles O19: every host word's meaning is a host command, and none is accepted in a transient state. -/
theorem commandWhileOutstandingHasNoStep : Obligations.CommandWhileOutstandingHasNoStep := by
  intro s w hs
  obtain ⟨body, hx⟩ := exec_decodeHost_eq_hostCommand w
  rw [hx, hostCommand_of_transient hs]

/-! ### A request that nothing answers (R159, R264) -/

/-- A state that steps to itself is where any number of steps leads. -/
theorem run_of_step_self {s : State} (h : step s = .next s) (k : Nat) : core.run k s = .next s := by
  induction k with
  | zero => exact run_zero s
  | succ k ih => rw [run_succ h, ih]

/-- Settles O29: a hung state steps to itself. -/
theorem unansweredRequestHoldsForever : Obligations.UnansweredRequestHoldsForever :=
  fun _ k hp hh => run_of_step_self (step_of_hung hp hh) k

/-! ### Precise errors (R250, R251) -/

/-- `v` has the handle and the reading of `s`, or it has returned OK since. -/
def State.KeepsReadingsOrReturnsOk (s v : State) : Prop :=
  (v.handle = s.handle ∧ v.reading = s.reading) ∨
  ∃ x : Response, statusCode x.status = 0x00 ∧ v.responses = s.responses ++ [x]

/-- R84, R85: a command that ends with OK returns the code 0. -/
theorem State.endCommand_ok_returnsOk (s : State) (d : Data) :
    ∃ x : Response, statusCode x.status = 0x00 ∧ (s.endCommand .ok .noStep none d).responses = s.responses ++ [x] := by
  obtain ⟨hcode, -⟩ := statusWord_fields .ok .noStep none s.calValid s.rdValid s.faultDz
  exact ⟨_, hcode, rfl⟩

/-- Only the two commits write the handle or the reading (R142, R152), and both return OK. -/
theorem MicroOpCase.keepsReadingsOrReturnsOk {s v : State} (h : MicroOpCase s v) : s.KeepsReadingsOrReturnsOk v := by
  cases h with
  | initCommits block rest hf => exact .inr (State.endCommand_ok_returnsOk _ .none)
  | measureCommits dp hf hd => exact .inr (State.endCommand_ok_returnsOk _ .none)
  | _ => exact .inl ⟨rfl, rfl⟩

theorem State.KeepsReadingsOrReturnsOk.enter {s v : State} (h : s.KeepsReadingsOrReturnsOk v) :
    s.KeepsReadingsOrReturnsOk v.enter := by
  simpa [State.KeepsReadingsOrReturnsOk] using h

theorem step_keepsReadingsOrReturnsOk {s t : State} (hr : ¬ s.resetNext) (h : step s = .next t) :
    s.KeepsReadingsOrReturnsOk t := by
  rcases step_cases_of_not_reset hr h with rfl | ⟨rest, v, hc, rfl⟩ | ⟨v, hm, rfl⟩
  · exact .inl ⟨rfl, rfl⟩
  · exact .inl ⟨v.enter_handle.trans hc.handle_eq, v.enter_reading.trans hc.reading_eq⟩
  · exact hm.keepsReadingsOrReturnsOk.enter

/-- Settles O45: every step keeps the handle and the reading or returns OK, and here the code it returns is another. -/
theorem errorsArePrecise : Obligations.ErrorsArePrecise := by
  intro s t r hr h ht hcode
  rcases step_keepsReadingsOrReturnsOk hr h with ⟨hhandle, hreading⟩ | ⟨x, hx, hresp⟩
  · simp only [State.handle, State.reading, Prod.mk.injEq, Reading.mk.injEq] at hhandle hreading
    obtain ⟨hdev, hoss, hcal, hvalid⟩ := hhandle
    obtain ⟨hrawT, hrawP, htemp, hpress, hrd⟩ := hreading
    exact ⟨hcal, htemp, hpress, hvalid, hrd, hrawT, hrawP, hdev, hoss⟩
  · obtain rfl : x = r := by simpa [hresp] using ht
    exact absurd hx hcode

end Sys2Proof.Machine

/-! PROOFS. Reset (R280), and the answers that are discarded (R281, R249): one that finds an idle block, and a late one. -/

namespace Sys2Proof.Machine

open Sys2Proof

/-! ### Reset (R280) -/

/-- Settles O10: the step is the reset action, which takes all but the inputs and the responses from `State.reset`. -/
theorem resetIsTakenInEveryState : Obligations.ResetIsTakenInEveryState :=
  fun _ _ hi => ⟨_, step_of_reset hi, rfl, rfl, rfl, rfl, rfl, rfl, rfl, rfl, rfl, rfl⟩

/-! ### An answer that is discarded (R281, R249, D43) -/

theorem State.dropInput_of_cons {s : State} {a : Input} {rest : List Input} (hi : s.inputs = a :: rest) :
    s.dropInput = { s with inputs := rest } := by
  rw [State.dropInput, hi, List.tail_cons]

/-- R86: a stable state issues no micro-operation. -/
theorem Fsm.microOp_of_stable {f : Fsm} (h : f.isStable = true) (oss : U2) : f.microOp oss = none := by
  cases f <;> simp [Fsm.isStable, Fsm.microOp] at h ⊢

/-- R140: a transient state other than `S_COMP` issues a request on entry. -/
theorem State.entryRequest_of_transient {s : State} (h : s.fsm.isStable = false) (hc : s.fsm ≠ .sComp) :
    ∃ r, s.entryRequest = some r := by
  cases hf : s.fsm <;> simp [hf, Fsm.isStable, State.entryRequest] at h hc ⊢

/-- R281, D43: an idle block throws away whatever arrives that is no action of the host. -/
theorem step_discards_of_stable {s : State} {a : Input} {rest : List Input} (hs : s.fsm.isStable = true)
    (hi : s.inputs = a :: rest) (hreset : a ≠ .reset) (hcommand : ∀ w, a ≠ .command w) :
    step s = .next { s with inputs := rest } := by
  have hf : s.fetch = .idle s.dropInput := by
    unfold State.fetch
    split
    next _ h => exact absurd (List.cons.inj (hi.symm.trans h)).1 hreset
    next w _ h => exact absurd (List.cons.inj (hi.symm.trans h)).1 (hcommand w)
    next => rw [Fsm.microOp_of_stable hs]
  rw [step, hf, State.dropInput_of_cons hi]

/-- R154 to R156: a micro-operation throws away an input that is no answer to its pending request. -/
theorem microOp_discards {i : Instr} {req : Request} {onOk : List U8 → State → State} {onErr : BusError → State → State}
    {s : State} {a : Input} {rest : List Input} (hm : s.fsm.microOp s.oss = some i) (hp : s.pend = some req)
    (hi : s.inputs = a :: rest) (hv : req.verdict a = .unrelated) :
    microOp i req onOk onErr s = .next { s with inputs := rest } := by
  rw [microOp_answer hm hp, ← State.dropInput_of_cons hi]
  simp [awaitAnswer, hi, hv]

/-- R249: a waiting state throws away an input that is no answer to its pending request. -/
theorem step_discards_of_unrelated {s : State} {r : Request} {a : Input} {rest : List Input} (hpend : s.PendMatchesFsm)
    (hp : s.pend = some r) (hi : s.inputs = a :: rest) (hv : r.verdict a = .unrelated) :
    step s = .next { s with inputs := rest } := by
  obtain ⟨hreset, hcommand⟩ := ne_hostAction_of_verdict (a := a) (r := r) (by simp [hv])
  obtain ⟨i, onOk, onErr, hm, hx⟩ := exec_eq_microOp_of_entryRequest (hpend.symm.trans hp)
  have hrun := stepRunsTheMicroOp s i hm (by simpa [State.resetNext, hi] using hreset)
    (.inr (by simpa [hi] using hcommand))
  rw [hrun.1 _ (hx.trans (microOp_discards hm hp hi hv)), State.enter_of_settled (.inl (by simp [hp]))]

/-- Settles O11: a stable state idles over any answer, and a late one is unrelated to whatever request is pending. -/
theorem lateAnswerIsDiscarded : Obligations.LateAnswerIsDiscarded := by
  constructor
  · rintro s a rest hs hi (rfl | ⟨bytes, rfl⟩ | ⟨e, rfl⟩ | rfl) <;>
      exact step_discards_of_stable hs hi (by simp) (by simp)
  · intro s a rest hpend hf hi
    cases hs : s.fsm.isStable with
    | true => exact step_discards_of_stable hs hi (by simp) (by simp)
    | false =>
      obtain ⟨r, hr⟩ := State.entryRequest_of_transient hs hf
      exact step_discards_of_unrelated hpend (hpend.trans hr) hi (by simp [Request.verdict])

end Sys2Proof.Machine

/-! PROOFS. The worked vectors of 95_test_vectors.md section 5, each by its row of named values. -/

namespace Sys2Proof.Machine

open Sys2Proof

/-! ### The calibration of the vectors (95_test_vectors.md section 1.2) -/

/-- The eleven coefficients of the worked example, at their own signs. -/
def exampleCal : Cal where
  ac1 := 408
  ac2 := -72
  ac3 := -14383
  ac4 := 32741
  ac5 := 32757
  ac6 := 23153
  b1 := 6190
  b2 := 4
  mb := -32768
  mc := -8711
  md := 2868

theorem decodeCal_eq_exampleCal :
    decodeCal #v[0x01, 0x98, 0xFF, 0xB8, 0xC7, 0xD1, 0x7F, 0xE5, 0x7F, 0xF5, 0x5A, 0x71, 0x18, 0x2E, 0x00, 0x04,
      0x80, 0x00, 0xDD, 0xF9, 0x0B, 0x34] = exampleCal := by decide

/-! ### A row of the table: the columns `b5`, `b3`, `b4`, `b7` and P11's `p` fix the result -/

theorem compensate_of_row {c : Cal} {oss : U2} {ut : S32} {up : U32} (b5 b3 : S32) (b4 b7 p : U32)
    (hrow : divisorT2 c (stepT1 c ut) ≠ 0 ∧ compB5 c ut = b5 ∧ compB3 c oss (stepP1 b5) = b3 ∧
      compB4 c (stepP1 b5) = b4 ∧ b4 ≠ 0 ∧ stepP10 oss up b3 = b7 ∧ stepP11 b7 b4 = p) :
    ∃ dp, compensate c oss ut up = .done dp ∧ dp.t = stepT4 b5 ∧ dp.p = compPressure p := by
  obtain ⟨hd, rfl, rfl, rfl, hz, rfl, rfl⟩ := hrow
  exact ⟨_, compensate_of_divisors_ne_zero hd hz, rfl, rfl⟩

/-- V1: no operation wraps, and P11 takes its first branch. -/
theorem compensate_exampleCal_27898 :
    ∃ dp, compensate exampleCal 0 27898 23843 = .done dp ∧ dp.t = 150 ∧ dp.p = 69964 :=
  compensate_of_row 2400 422 33457 1171050000 70003 (by decide)

/-- V14: T2's negative quotient is truncated; the floor would give -16 for the temperature. -/
theorem compensate_exampleCal_26018 :
    ∃ dp, compensate exampleCal 0 26018 23843 = .done dp ∧ dp.t = -15 ∧ dp.p = 67372 :=
  compensate_of_row (-248) 447 34708 1169800000 67408 (by decide)

/-- W9: P10 wraps, P11's second branch wraps, and P12 reads the quotient as a negative number. -/
theorem compensate_exampleCal_ac4_one :
    ∃ dp, compensate { exampleCal with ac4 := 1 } 0 0 0 = .done dp ∧ dp.t = -1392 ∧ dp.p = -72100417 :=
  compensate_of_row (-22267) 721 1 4258917296 4222867296 (by decide)

/-- V16: T1 gives -2868, the negative of MD. -/
theorem divisorT2_exampleCal_20285 : divisorT2 exampleCal (stepT1 exampleCal 20285) = 0 := by
  have hx1 : stepT1 exampleCal 20285 = -2868 := by decide
  rw [hx1]
  decide

/-- P9 (R192): with AC4 = 0 the divisor of P11 is 0, whatever P6 to P8 give. -/
theorem compB4_of_ac4_eq_zero {c : Cal} (h : c.ac4 = 0) (b6 : S32) : compB4 c b6 = 0 := by
  simp [compB4, stepP9, shr, zext32, h]

/-- Settles O54: each vector by its row, V16 and V17 by the divisor that is 0. -/
theorem workedExamples : Obligations.WorkedExamples := by
  unfold Obligations.WorkedExamples
  intro c result
  have hc : c = exampleCal := decodeCal_eq_exampleCal
  rw [hc]
  have result_done {r : CompResult} {t p : S32} (h : ∃ dp, r = .done dp ∧ dp.t = t ∧ dp.p = p) :
      result r = some (t.toInt, p.toInt) := by
    obtain ⟨dp, rfl, rfl, rfl⟩ := h
    rfl
  exact ⟨result_done compensate_exampleCal_27898, result_done compensate_exampleCal_26018,
    compensate_eq_compT_iff.mpr divisorT2_exampleCal_20285,
    compensate_of_b4_eq_zero (by decide) (compB4_of_ac4_eq_zero rfl _),
    result_done compensate_exampleCal_ac4_one⟩

end Sys2Proof.Machine
